-- ==== Sys2Proof/Word.lean ====
section
/-!
DEFINITION. The words of the xoshiro128 CORE and the two composite values that cross its ports or
fill its registers: the four-word tuple `S` (R14, R20) and the 136-bit command (R60).
-/

namespace Sys2Proof

/-- Eight bits: a seed byte (R63), the opcode byte (R61). -/
abbrev Byte := BitVec 8

/-- `u32` (R8, R13): one state word. -/
abbrev Word := BitVec 32

/-- `u64` (R13): the SEED64 seed and the SplitMix64 values (R65, R102). -/
abbrev Quad := BitVec 64

/-- The 128-bit operand and result fields `cmd_data` and `rsp_data` (R60). -/
abbrev Data := BitVec 128

/-- Four 32-bit words in index order: the registers S[0], S[1], S[2], S[3] (R20), an operand of
format W (R62), a jump constant (R120), the jump accumulator (R121). -/
structure Words where
  w0 : Word
  w1 : Word
  w2 : Word
  w3 : Word
  deriving DecidableEq, Repr

/-- The tuple (0, 0, 0, 0): the fixed point of the transition (R24, R87). -/
def Words.zero : Words := ⟨0, 0, 0, 0⟩

/-- XOR word by word (R81, R121). -/
def Words.xor (a b : Words) : Words :=
  ⟨a.w0 ^^^ b.w0, a.w1 ^^^ b.w1, a.w2 ^^^ b.w2, a.w3 ^^^ b.w3⟩

/-- A command: the pair `(cmd_op, cmd_data)`, 136 bits, taken in one transfer (R60, R72). -/
structure Command where
  op   : Byte
  data : Data
  deriving DecidableEq, Repr

end Sys2Proof
end

