-- ==== Sys2Proof/Config.lean ====
section
/-!
DEFINITION. What the spec leaves to the build of the block: the zero-seed substitute (R9) and the
latencies (R10). Each rests on an opaque constant with no body, so that nothing in Lean knows its
value and every claim holds for each admissible value. None of it is state (R27).
-/

namespace Sys2Proof

/-- The free choice behind `ZERO_SEED_SUBST` (assumption 1). -/
opaque Config.zeroSeedChoice : Nat

/-- `ZERO_SEED_SUBST` (R9, R101) as 128 bits, byte k in bits 8k+7:8k (R63): some 16-byte constant
that is not all zero. Each of the 2^128 - 1 admissible values is the value for some choice. -/
def Config.zeroSeedSubst : Data :=
  BitVec.ofNat 128 (Config.zeroSeedChoice % (2 ^ 128 - 1) + 1)

/-- `LAT_NEXT - 1` (R10): a free natural number, so that `LAT_NEXT` is any positive integer. -/
opaque Config.latNextExtra : Nat

/-- `LAT_SEED - 1` (R10). -/
opaque Config.latSeedExtra : Nat

/-- `LAT_JUMP - 1` (R10). -/
opaque Config.latJumpExtra : Nat

/-- `LAT_ACCESS - 1` (R10). -/
opaque Config.latAccessExtra : Nat

/-- The latency, less one, of a command that is not legal: R10 names no parameter for it, R184
asks for at least one cycle, so it is free and may differ from command to command (assumption 4). -/
opaque Config.latIllegalExtra : Command → Nat

/-- `LAT_NEXT` in clock cycles (R10). -/
def Config.latNext : Nat := Config.latNextExtra + 1

/-- `LAT_SEED` in clock cycles (R10). -/
def Config.latSeed : Nat := Config.latSeedExtra + 1

/-- `LAT_JUMP` in clock cycles (R10). -/
def Config.latJump : Nat := Config.latJumpExtra + 1

/-- `LAT_ACCESS` in clock cycles (R10). -/
def Config.latAccess : Nat := Config.latAccessExtra + 1

/-- The latency of an illegal command in clock cycles (R184; assumption 4). -/
def Config.latIllegal (c : Command) : Nat := Config.latIllegalExtra c + 1

end Sys2Proof
end

