-- ==== Sys2Proof/Machine/Operands.lean ====
section
/-!
DEFINITION. Operand and result fields: byte and word lanes of a 128-bit field (R16, R63, R64),
little-endian assembly (R42), the 128-bit view of a state (R21), zero extension (R15, R70), and the
two rotation and splitting helpers of the datapath (R15, R43).
-/

namespace Sys2Proof.Machine

/-- `byte(d, k) = d[8k+7:8k]` (R16, R63). -/
def byteLane (d : Data) (k : Nat) : Byte := d.extractLsb' (8 * k) 8

/-- `word(d, i) = d[32i+31:32i]` (R16, R64). -/
def wordLane (d : Data) (i : Nat) : Word := d.extractLsb' (32 * i) 32

/-- The operand words of format W, lane i for S[i] (R44, R64). -/
def wordsOf (d : Data) : Words := ⟨wordLane d 0, wordLane d 1, wordLane d 2, wordLane d 3⟩

/-- `{S[3], S[2], S[1], S[0]}`: word i in lane i (R21, R44, R64). -/
def dataOf (w : Words) : Data := w.w3 ++ w.w2 ++ w.w1 ++ w.w0

/-- `{B[4i+3], B[4i+2], B[4i+1], B[4i]}`: seed bytes 4i to 4i+3 as a little-endian word (R42). -/
def seedWord (b : Data) (i : Nat) : Word :=
  byteLane b (4 * i + 3) ++ byteLane b (4 * i + 2) ++ byteLane b (4 * i + 1) ++ byteLane b (4 * i)

/-- Sixteen seed bytes as four little-endian words (R42, R100). -/
def seedWords (b : Data) : Words := ⟨seedWord b 0, seedWord b 1, seedWord b 2, seedWord b 3⟩

/-- `zext_128(r)` of a 32-bit result (R15, R70). -/
def zextWord (r : Word) : Data := r.setWidth 128

/-- `zext_128(e ? 1 : 0)` (R70, R142). -/
def zextBit (e : Bool) : Data := if e then 1 else 0

/-- `rotl32(a, k) = (a << k) | (a >> (32 - k))` for 0 < k < 32 (R15). -/
def rotl32 (a : Word) (k : Nat) : Word := (a <<< k) ||| (a >>> (32 - k))

/-- `z[31:0]` (R43). -/
def lowHalf (z : Quad) : Word := z.extractLsb' 0 32

/-- `z[63:32]` (R43). -/
def highHalf (z : Quad) : Word := z.extractLsb' 32 32

end Sys2Proof.Machine
end

