-- ==== Sys2Proof/Syntax.lean ====
section
/-!
DEFINITION. The XO128 command set, revision 1 (R1, R3, R66): one constructor per row of
spec/opcode_table.json. An operand is typed by its format (R62): format N carries nothing, B the
sixteen seed bytes, Q a 64-bit seed, W four words.
-/

namespace Sys2Proof

inductive Instr where
  /-- OP 0x1, format N: produce next word, Plus extractor (R85). -/
  | nextp
  /-- OP 0x2, format N: produce next word, StarStar extractor (R86). -/
  | nextss
  /-- OP 0x3, format N: advance the state 2^64 transitions (R122). -/
  | jump
  /-- OP 0x4, format N: advance the state 2^96 transitions (R123). -/
  | ljump
  /-- OP 0x5, format B: construct the state from 16 seed bytes, byte k in bits 8k+7:8k (R100). -/
  | seedb (b : Data)
  /-- OP 0x6, format Q: construct the state from a 64-bit seed (R103). -/
  | seed64 (v : Quad)
  /-- OP 0x7, format N: read the four-word state (R140). -/
  | rdst
  /-- OP 0x8, format W: write the four-word state (R141). -/
  | wrst (w : Words)
  /-- OP 0x9, format W: compare the state with a four-word operand (R142). -/
  | eqst (w : Words)
  deriving DecidableEq, Repr

end Sys2Proof
end

