-- ==== Sys2Proof/WellFormed.lean ====
section
/-!
DEFINITION. Which commands are legal (R61, R62, R67, R68), as a check on the 136 raw bits that is
written apart from the decoder, and the well-formedness of an instruction.
-/

namespace Sys2Proof

/-- The four operand formats (R62). -/
inductive Format where
  | none
  | bytes
  | quad
  | words
  deriving DecidableEq, Repr

/-- The bits of `cmd_data` that a format requires to be zero, as a mask (R62, R67). -/
def Format.mustBeZero : Format → Data
  | .none => 0xFFFFFFFF_FFFFFFFF_FFFFFFFF_FFFFFFFF
  | .bytes => 0
  | .quad => 0xFFFFFFFF_FFFFFFFF_00000000_00000000
  | .words => 0

/-- The format of the operation OP = `cmd_op[3:0]`, where the opcode map lists that value (R66). -/
def opFormat (op : BitVec 4) : Option Format :=
  match op.toNat with
  | 0x1 | 0x2 | 0x3 | 0x4 | 0x7 => some .none
  | 0x5 => some .bytes
  | 0x6 => some .quad
  | 0x8 | 0x9 => some .words
  | _ => none

/-- `Legal(cmd_op, cmd_data)` (R67): RSV is 0000, OP is 0x1 to 0x9, and every must-be-zero bit of
OP's format is zero. -/
def Command.legal (c : Command) : Bool :=
  c.op.extractLsb' 4 4 == 0 &&
    match opFormat (c.op.extractLsb' 0 4) with
    | some f => f.mustBeZero &&& c.data == 0
    | none => false

/-- Every term of `Instr` is well formed: an operand's type is exactly the operand field of its
format (R62), and no rule restricts the value of an operand (R67: `MustBeZero(B)` and
`MustBeZero(W)` are none, and the 64 high bits of format Q are no part of `seed64`'s operand). What
can be ill formed is a command, and `Command.legal` is the check on it. -/
def Instr.wellFormed : Instr → Bool
  | .nextp => true
  | .nextss => true
  | .jump => true
  | .ljump => true
  | .seedb _ => true
  | .seed64 _ => true
  | .rdst => true
  | .wrst _ => true
  | .eqst _ => true

end Sys2Proof
end

