-- ==== Sys2Proof/Decode.lean ====
section
/-!
DEFINITION. The decoder, total on the 136 bits of a command and rejecting by name (R61, R66 to R68,
R72), and the encoder, from the same encoding tables (R62, R66, R73).
-/

namespace Sys2Proof

/-- Why a command is not legal (R67, R68). Each reason has the one status ILLEGAL (R161). -/
inductive Illegal where
  /-- `cmd_op[7:4]` is not 0000. -/
  | reservedRsv
  /-- OP is 0x0 or 0xA to 0xF. -/
  | reservedOp
  /-- A must-be-zero bit of `cmd_data` is 1. -/
  | mustBeZero
  deriving DecidableEq, Repr

/-- An operation of format N: it takes no operand, and `cmd_data` must be 0 (R62). -/
def decodeNone (i : Instr) (d : Data) : Except Illegal Instr :=
  if d = 0 then .ok i else .error .mustBeZero

/-- An operation of format Q: the operand is `cmd_data[63:0]`, and `cmd_data[127:64]` must be 0
(R62, R65). -/
def decodeQuad (f : Quad → Instr) (d : Data) : Except Illegal Instr :=
  if d.extractLsb' 64 64 = 0 then .ok (f (d.extractLsb' 0 64)) else .error .mustBeZero

/-- The operation that OP selects, read with its format (R62, R66). -/
def decodeOp (op : Nat) (d : Data) : Except Illegal Instr :=
  match op with
  | 0x1 => decodeNone .nextp d
  | 0x2 => decodeNone .nextss d
  | 0x3 => decodeNone .jump d
  | 0x4 => decodeNone .ljump d
  | 0x5 => .ok (.seedb d)
  | 0x6 => decodeQuad .seed64 d
  | 0x7 => decodeNone .rdst d
  | 0x8 => .ok (.wrst (Machine.wordsOf d))
  | 0x9 => .ok (.eqst (Machine.wordsOf d))
  | _ => .error .reservedOp

/-- The decoder: RSV first, then OP, then the must-be-zero bits of OP's format (R61, R66, R67). -/
def decode (c : Command) : Except Illegal Instr :=
  if c.op.extractLsb' 4 4 = 0 then decodeOp (c.op.extractLsb' 0 4).toNat c.data
  else .error .reservedRsv

/-- The encoder: the command of an instruction (R66, R73), with zero in every must-be-zero bit. -/
def encode : Instr → Command
  | .nextp => ⟨0x01, 0⟩
  | .nextss => ⟨0x02, 0⟩
  | .jump => ⟨0x03, 0⟩
  | .ljump => ⟨0x04, 0⟩
  | .seedb b => ⟨0x05, b⟩
  | .seed64 v => ⟨0x06, v.setWidth 128⟩
  | .rdst => ⟨0x07, 0⟩
  | .wrst w => ⟨0x08, Machine.dataOf w⟩
  | .eqst w => ⟨0x09, Machine.dataOf w⟩

/-- The command whose bits are `w` as spec/opcode_table.json numbers them: `cmd_op` in bits 7:0, and
`cmd_data`, to which the table gives no bits, in bits 135:8; the bits from `nbits` up are zero
(assumption 6). -/
def commandOfBits (nbits w : Nat) : Command :=
  let v := w % 2 ^ nbits
  ⟨BitVec.ofNat 8 v, BitVec.ofNat 128 (v / 2 ^ 8)⟩

/-- What the decoder reads from the table's bits; none where it refuses. -/
def decodeTableWord (nbits w : Nat) : Option Instr :=
  match decode (commandOfBits nbits w) with
  | .ok i => some i
  | .error _ => none

end Sys2Proof
end

