-- ==== Sys2Proof/Machine/State.lean ====
section
/-!
DEFINITION. The state of one block (R1, R20, R23, R28, R31): the generator with its SEEDED flag, the
command port's side of the handshake, the response port, and what the host drives on the inputs at
the coming clock edges. All of it is plain data.
-/

namespace Sys2Proof.Machine

/-- The generator state and its validity flag, as R23 ties them: SEEDED = 0 means that S holds no
value, SEEDED = 1 that S has been constructed. The spec asks a model to hold S after reset as "no
value", not zero (R31): `unseeded` is that value. -/
inductive Gen where
  /-- SEEDED = 0, S holds no value. -/
  | unseeded
  /-- SEEDED = 1, S[0..3] are the four words. -/
  | seeded (s : Words)
  deriving DecidableEq, Repr

/-- The statuses a response can carry (R71). Code 3 is reserved and never produced. -/
inductive Status where
  /-- Code 0: the command executed as its rule says. -/
  | ok
  /-- Code 1: the command is not legal; nothing changed. -/
  | illegal
  /-- Code 2: the command needs the state but SEEDED = 0; nothing changed. -/
  | unseeded
  deriving DecidableEq, Repr

/-- A response: the pair `(rsp_status, rsp_data)`, 130 bits (R60). -/
structure Response where
  status : Status
  data   : Data
  deriving DecidableEq, Repr

/-- Where the block stands between two rising edges of `clk` (R180, R183, R184). -/
inductive Phase where
  /-- The last edge had `rst` = 1. -/
  | inReset
  /-- No command in progress: `cmd_ready` = 1. -/
  | idle
  /-- The accepted command `c` is in progress, `cmd_ready` = 0, and `left` more edges pass before the
  edge at which it completes. -/
  | busy (c : Command) (left : Nat)
  deriving DecidableEq, Repr

/-- What the host drives on the block's inputs at one rising edge of `clk` (R60, R180). -/
structure Pins where
  rst      : Bool
  cmdValid : Bool
  cmdOp    : Byte
  cmdData  : Data
  deriving DecidableEq, Repr

/-- The whole state of one block, and the model's own list of what its host drives next. -/
structure State where
  /-- S[0..3] and SEEDED (R20, R23). -/
  gen    : Gen
  /-- `cmd_ready`, the sampled command and its remaining latency (R28, R180, R183, R184). -/
  phase  : Phase
  /-- `rsp_valid`, and while it is 1 the held `rsp_status` and `rsp_data`; while it is 0 the response
  ports hold no value (R28, R69, R184). -/
  rsp    : Option Response
  /-- The input pins at the coming rising edges, the next edge first (the model's own field; R189
  gives what a host may drive). Past its end the host drives nothing. -/
  inputs : List Pins
  deriving DecidableEq, Repr

/-- The reasons a step of this machine can stop with a fault: there are none. No operation fails
(R160), the block takes no traps (R165), and a reserved encoding or a command before construction
is answered by a status in the response (R161, R162). Safe: every step has a next state. -/
inductive Fault where
  deriving DecidableEq, Repr

/-- The reasons the model can refuse a step. -/
inductive Refusal where
  /-- Raised only by an arm of `exec` whose instruction has no meaning yet; no arm is left so. Safe:
  the model stops where the hardware goes on. -/
  | notModelled (mnemonic : String)
  deriving DecidableEq, Repr

/-- The block at the first rising edge after reset has been released (R31, R180): SEEDED = 0 and S
without value, idle with `cmd_ready` = 1, `rsp_valid` = 0 and no command in progress. Nothing is
listed that a host would drive. -/
def State.reset : State := ⟨.unseeded, .idle, none, []⟩

end Sys2Proof.Machine
end

