-- ==== Sys2Proof/Machine/Ops.lean ====
section
/-!
DEFINITION. The named operations on the block's state: the ports as a host sees them (R60, R69,
R71), ending a command with a response (R16, R70, R184), the reset edge (R180), accepting a command
(R183), waiting (R184), and the latency of a command (R10). There is no memory to operate on (R40),
and no exception to take or return from (R165, R166): an error is a status in the response.
-/

namespace Sys2Proof.Machine

/-- The code of a status on `rsp_status[1:0]` (R71). -/
def Status.code : Status → BitVec 2
  | .ok => 0
  | .illegal => 1
  | .unseeded => 2

/-- SEEDED (R23). -/
def State.seeded (s : State) : Bool :=
  match s.gen with
  | .unseeded => false
  | .seeded _ => true


/-- The output `rsp_valid` (R60, R69). A held response is still shown at the first edge with `rst` = 1,
and is gone after it (R180; assumption 12). -/
def State.rspValid (s : State) : Bool := s.rsp.isSome

/-- The output `rsp_status`; it holds no value while `rsp_valid` = 0 (R184). -/
def State.rspStatus (s : State) : Option (BitVec 2) := s.rsp.map fun r => r.status.code

/-- The output `rsp_data`; it holds no value while `rsp_valid` = 0 (R184). -/
def State.rspData (s : State) : Option Data := s.rsp.map fun r => r.data

/-- `respond(st, d)` (R16): the command completes, its response is driven with `rsp_valid` = 1, and
the block is ready for the next command whatever the status (R165, R184). -/
def State.respond (s : State) (st : Status) (d : Data) : State :=
  { s with phase := .idle, rsp := some ⟨st, d⟩ }

/-- `raise ILLEGAL` (R16, R161, R164): data zero, nothing else changes. -/
def State.raiseIllegal (s : State) : State := s.respond .illegal 0

/-- `raise UNSEEDED` (R16, R162, R164): data zero, nothing else changes. -/
def State.raiseUnseeded (s : State) : State := s.respond .unseeded 0

/-- `S <- w` by a command that needs the state, or `S <- w; SEEDED <- 1` by one that constructs it
(R22, R23): all four words at once (R48). -/
def State.setWords (s : State) (w : Words) : State := { s with gen := .seeded w }

/-- A rising edge with `rst` = 1 (R180): SEEDED <- 0, S without value, any command in progress
abandoned with no response, `cmd_ready` = 0 and `rsp_valid` = 0. -/
def State.resetEdge (s : State) : State :=
  { s with gen := .unseeded, phase := .inReset, rsp := none }

/-- The edge that accepts a command (R183, R184): it is sampled, `cmd_ready` drops, `rsp_valid`
drops, and `left` edges will pass before the completing one. -/
def State.accept (s : State) (c : Command) (left : Nat) : State :=
  { s with phase := .busy c left, rsp := none }

/-- An edge in the middle of a command (R183, R184): only its remaining latency changes. -/
def State.wait (s : State) (c : Command) (left : Nat) : State :=
  { s with phase := .busy c left }

/-- An edge with `rst` = 0 and no command offered: the block is idle and holds everything else
(R173, R180). -/
def State.idleEdge (s : State) : State := { s with phase := .idle }

/-- The host drives nothing: `rst` = 0 and `cmd_valid` = 0. -/
def Pins.quiet : Pins := ⟨false, false, 0, 0⟩

/-- The host offers a command: `rst` = 0 and `cmd_valid` = 1 (R189). -/
def Pins.offer (c : Command) : Pins := ⟨false, true, c.op, c.data⟩

/-- The command on the input pins (R60). -/
def Pins.command (p : Pins) : Command := ⟨p.cmdOp, p.cmdData⟩

/-- The input pins at the next rising edge; past the end of the list the host drives nothing
(assumption 3). -/
def State.pins (s : State) : Pins := s.inputs.headD Pins.quiet

/-- The output `cmd_ready` (R60) as the host sees it at the coming rising edge: 0 while a command is
in progress, and after a reset edge 0 as long as `rst` stays 1 and 1 at the first edge with `rst` = 0
(R31, R180, R183, R184; assumption 2). An idle block shows 1 also at the first edge with `rst` = 1: R180
does not say what the host sees at that edge itself, before the reset takes effect (DESIGN CHOICE,
unsafe; assumption 12). -/
def State.cmdReady (s : State) : Bool :=
  match s.phase with
  | .inReset => !s.pins.rst
  | .idle => true
  | .busy _ _ => false

/-- The state with the next edge's input pins taken off the list. -/
def State.dropPins (s : State) : State := { s with inputs := s.inputs.tail }

/-- The latency of an instruction in clock cycles: R10's four parameters, by the kind of operation
(assumption 4). -/
def latencyOf : Instr → Nat
  | .nextp => Config.latNext
  | .nextss => Config.latNext
  | .jump => Config.latJump
  | .ljump => Config.latJump
  | .seedb _ => Config.latSeed
  | .seed64 _ => Config.latSeed
  | .rdst => Config.latAccess
  | .wrst _ => Config.latAccess
  | .eqst _ => Config.latAccess

/-- The latency of a command: the clock cycles from its acceptance to its completion (R10, R184). -/
def latency (c : Command) : Nat :=
  match decode c with
  | .ok i => latencyOf i
  | .error _ => Config.latIllegal c

/-- The state in which the next edge completes the command `c`, as if it had been accepted and had
one edge left, with quiet inputs at that edge (R183, R184; assumption 6). -/
def State.placeCommand (s : State) (c : Command) : State :=
  { s.accept c 0 with inputs := Pins.quiet :: s.inputs }

end Sys2Proof.Machine
end

