-- ==== Sys2Proof/Machine/Flags.lean ====
section
/-!
DEFINITION. The block's one flag, SEEDED (R23, R26): the check that every command reading the state
makes (R162, R164), and the construction that sets it. There are no condition codes (R26).
-/

namespace Sys2Proof.Machine

/-- The commands that read the state (R22), and answer UNSEEDED while SEEDED = 0 (R162). -/
def needsState : Instr → Bool
  | .nextp => true
  | .nextss => true
  | .jump => true
  | .ljump => true
  | .seedb _ => false
  | .seed64 _ => false
  | .rdst => true
  | .wrst _ => false
  | .eqst _ => true

/-- `if SEEDED == 0: raise UNSEEDED`, else go on with the four words of S (R162, R164). -/
def withWords (s : State) (k : Words → Host.Outcome State Fault Refusal) :
    Host.Outcome State Fault Refusal :=
  match s.gen with
  | .unseeded => .next s.raiseUnseeded
  | .seeded w => k w

/-- `S <- w; SEEDED <- 1; respond(OK, 0)`: how every construction ends (R23, R100, R103, R141). -/
def construct (s : State) (w : Words) : Host.Outcome State Fault Refusal :=
  .next ((s.setWords w).respond .ok 0)

/-- The state after a command that reads S, writes it and answers OK (R22, R70). -/
def finish (s : State) (w : Words) (d : Data) : Host.Outcome State Fault Refusal :=
  .next ((s.setWords w).respond .ok d)

end Sys2Proof.Machine
end

