-- ==== Sys2Proof/Machine/Access.lean ====
section
/-!
DEFINITION. State read, write and compare: RDST, WRST, EQST (R140 to R142).
-/

namespace Sys2Proof.Machine

/-- RDST (R140): word i of the response is S[i]; the generator does not advance. -/
def execRdst (s : State) : Host.Outcome State Fault Refusal :=
  withWords s fun w => .next (s.respond .ok (dataOf w))

/-- WRST (R141): verbatim, with no zero check and no remapping. -/
def execWrst (w : Words) (s : State) : Host.Outcome State Fault Refusal := construct s w

/-- EQST (R142): exact equality of the four words. -/
def execEqst (w : Words) (s : State) : Host.Outcome State Fault Refusal :=
  withWords s fun v =>
    .next (s.respond .ok
      (zextBit (v.w0 == w.w0 && v.w1 == w.w1 && v.w2 == w.w2 && v.w3 == w.w3)))

end Sys2Proof.Machine
end

