-- ==== Sys2Proof/Machine/Transition.lean ====
section
/-!
DEFINITION. The transition function T (R80) and the two output extractors (R82, R83).
-/

namespace Sys2Proof.Machine

/-- `T(S)` (R80), line by line: each line reads what the lines before it wrote. -/
def transition (s : Words) : Words :=
  let t  := s.w1 <<< 9
  let s2 := s.w2 ^^^ s.w0
  let s3 := s.w3 ^^^ s.w1
  let s1 := s.w1 ^^^ s2
  let s0 := s.w0 ^^^ s3
  let s2 := s2 ^^^ t
  let s3 := rotl32 s3 11
  ⟨s0, s1, s2, s3⟩

/-- `T^n(S)`, the n-fold application of T, with `T^0` the identity (R18). -/
def transitionN (n : Nat) (s : Words) : Words := transition^[n] s

/-- `E_P(S) = S[0] +32 S[3]` (R82). -/
def extractPlus (s : Words) : Word := s.w0 + s.w3

/-- `E_SS(S) = rotl32(S[1] *32 5, 7) *32 9` (R83). -/
def extractStarStar (s : Words) : Word := rotl32 (s.w1 * 5) 7 * 9

end Sys2Proof.Machine
end

