-- ==== Sys2Proof/Machine/Jump.lean ====
section
/-!
DEFINITION. The jump engine (R120, R121) and the commands JUMP and LJUMP (R122, R123).
-/

namespace Sys2Proof.Machine

/-- `JUMP_C` (R120). -/
def jumpConst : Words := ⟨0x8764000B, 0xF542D2D3, 0x6FA035C3, 0x77F2DB5B⟩

/-- `LJUMP_C` (R120). -/
def ljumpConst : Words := ⟨0xB523952E, 0x0B6F099F, 0xCCF5A0EF, 0x1C580662⟩

/-- The bits of one constant word, least significant first (R120). -/
def wordBits (w : Word) : List Bool := (List.range 32).map fun b => w.getLsbD b

/-- The 128 constant bits c_0, c_1, ..., c_127 in the order the engine processes them: words in array
order, each from its least significant bit (R120, R125). -/
def constBits (c : Words) : List Bool :=
  wordBits c.w0 ++ wordBits c.w1 ++ wordBits c.w2 ++ wordBits c.w3

/-- The engine's loop (R121): on a 1 bit the current working state is XORed into the accumulator,
and whatever the bit the working state advances by one transition. -/
def jumpLoop : List Bool → Words → Words → Words
  | [], acc, _ => acc
  | b :: bs, acc, s => jumpLoop bs (if b then acc.xor s else acc) (transition s)

/-- `JumpPoly(C, S)` (R121): the accumulator starts at zero and is the result. -/
def jumpPoly (c s : Words) : Words := jumpLoop (constBits c) Words.zero s

/-- A jump by a constant: `S <- JumpPoly(C, S); respond(OK, 0)` (R122, R123). -/
def jumpBy (c : Words) (s : State) : Host.Outcome State Fault Refusal :=
  withWords s fun w => finish s (jumpPoly c w) 0

/-- JUMP (R122). -/
def execJump (s : State) : Host.Outcome State Fault Refusal := jumpBy jumpConst s

/-- LJUMP (R123). -/
def execLjump (s : State) : Host.Outcome State Fault Refusal := jumpBy ljumpConst s

end Sys2Proof.Machine
end

