-- ==== Sys2Proof/Machine/Produce.lean ====
section
/-!
DEFINITION. The produce-next commands NEXTP and NEXTSS (R84 to R86).
-/

namespace Sys2Proof.Machine

/-- The per-step contract (R84): extract from the current state, then apply the transition, then
return the extracted word, zero-extended (R70). -/
def produceNext (extract : Words → Word) (s : State) : Host.Outcome State Fault Refusal :=
  withWords s fun w => finish s (transition w) (zextWord (extract w))

/-- NEXTP (R85). -/
def execNextp (s : State) : Host.Outcome State Fault Refusal := produceNext extractPlus s

/-- NEXTSS (R86). -/
def execNextss (s : State) : Host.Outcome State Fault Refusal := produceNext extractStarStar s

end Sys2Proof.Machine
end

