-- ==== Sys2Proof/Machine/Seeding.lean ====
section
/-!
DEFINITION. The seeding subsystem (R100 to R106): the zero-seed substitution, the SplitMix64 step,
and the commands SEEDB and SEED64.
-/

namespace Sys2Proof.Machine

/-- `if B == 0: B <- ZERO_SEED_SUBST` (R100, R101): silent, not an error (R163). -/
def substituteZero (b : Data) : Data := if b = 0 then Config.zeroSeedSubst else b

/-- SEEDB (R100): both with SEEDED = 0 and with SEEDED = 1. -/
def execSeedb (b : Data) (s : State) : Host.Outcome State Fault Refusal :=
  construct s (seedWords (substituteZero b))

/-- `SM(x) = (x', z)` (R102): all arithmetic mod 2^64, the output computed from the incremented
state. -/
def splitMix (x : Quad) : Quad × Quad :=
  let x' := x + 0x9E3779B97F4A7C15
  let z  := x'
  let z  := (z ^^^ (z >>> 30)) * 0xBF58476D1CE4E5B9
  let z  := (z ^^^ (z >>> 27)) * 0x94D049BB133111EB
  let z  := z ^^^ (z >>> 31)
  (x', z)

/-- The four words of two SplitMix64 outputs, each split low word first (R43, R103). -/
def splitMixWords (v : Quad) : Words :=
  let (x, z1) := splitMix v
  let (_, z2) := splitMix x
  ⟨lowHalf z1, highHalf z1, lowHalf z2, highHalf z2⟩

/-- The defensive zero check on the SplitMix64 result (R103, R104). -/
def substituteZeroWords (w : Words) : Words :=
  if w = Words.zero then seedWords Config.zeroSeedSubst else w

/-- SEED64 (R103). -/
def execSeed64 (v : Quad) (s : State) : Host.Outcome State Fault Refusal :=
  construct s (substituteZeroWords (splitMixWords v))

end Sys2Proof.Machine
end

