-- ==== Sys2Proof/Machine/Dispatch.lean ====
section
/-!
DEFINITION. The meaning of each instruction, at the edge that completes it: one arm per constructor.
-/

namespace Sys2Proof.Machine

def exec (i : Instr) (s : State) : Host.Outcome State Fault Refusal :=
  match i with
  | .nextp => Sys2Proof.Machine.execNextp s
  | .nextss => Sys2Proof.Machine.execNextss s
  | .jump => Sys2Proof.Machine.execJump s
  | .ljump => Sys2Proof.Machine.execLjump s
  | .seedb b => Sys2Proof.Machine.execSeedb b s
  | .seed64 v => Sys2Proof.Machine.execSeed64 v s
  | .rdst => Sys2Proof.Machine.execRdst s
  | .wrst w => Sys2Proof.Machine.execWrst w s
  | .eqst w => Sys2Proof.Machine.execEqst w s

end Sys2Proof.Machine
end

