-- ==== Sys2Proof/Machine/Edge.lean ====
section
/-!
DEFINITION. One rising edge of `clk` (R180, R183, R184), and the completion of a command in it.
-/

namespace Sys2Proof.Machine

/-- The completion of a command (R164, R184): `if not Legal: raise ILLEGAL`, else the meaning of the
instruction it decodes to. -/
def complete (c : Command) (s : State) : Host.Outcome State Fault Refusal :=
  match decode c with
  | .ok i => exec i s
  | .error _ => .next s.raiseIllegal

/-- One rising edge with the input pins `p`. With `rst` = 1 the block resets, whatever it was doing
(R180). Otherwise a command in progress waits or completes and the command inputs are ignored
(R183); with none in progress the block is ready (R180), and accepts the command that is offered. -/
def edge (p : Pins) (s : State) : Host.Outcome State Fault Refusal :=
  if p.rst then .next s.resetEdge
  else
    match s.phase with
    | .busy c 0 => complete c s
    | .busy c (left + 1) => .next (s.wait c left)
    | .idle | .inReset =>
      if p.cmdValid then .next (s.accept p.command (latency p.command - 1))
      else .next s.idleEdge

end Sys2Proof.Machine
end

