-- ==== Sys2Proof/Machine/Step.lean ====
section
/-!
DEFINITION. The step of the machine: one rising edge of `clk`, with the input pins the host drives at
that edge. The block fetches nothing (R25, R53): a command comes from its command port.
-/

namespace Sys2Proof.Machine

/-- One rising edge of `clk` (R180, R183, R184) with the next listed input pins. -/
def step (s : State) : Host.Outcome State Fault Refusal := edge s.pins s.dropPins

/-- The state whose next step runs the command with the table's bits `w`: that command is in
progress and completes at the next edge (assumption 6). -/
def State.withFetchWord (s : State) (nbits w : Nat) : State :=
  s.placeCommand (commandOfBits nbits w)

end Sys2Proof.Machine
end

