-- ==== Sys2Proof/Machine/HostSide.lean ====
section
/-!
DEFINITION. The host's side of the ports, untimed (R190, R191): one command and its response, a
sequence of commands, several separate blocks (R52, R171), the composition of wider outputs that the
spec settles for host models (R54, R55), and the pseudo-instructions (R74). None of it is part of
the block; all of it goes through the block's own commands, issued to a block that is ready
(assumption 11).
-/

namespace Sys2Proof.Machine

/-- One command from acceptance to completion, whatever its latency (R184, R185, R191). It stands for
a host that issues to a ready block. On a block with a command still in progress, where R183 accepts
nothing and R74 is silent, it drops that command without a response and runs the new one at once:
DESIGN CHOICE, unsafe there (assumption 11), and so for everything below that issues commands. -/
def transact (c : Command) (s : State) : Host.Outcome State Fault Refusal :=
  complete c (s.accept c 0)

/-- The response the host reads and the state behind it, once `rsp_valid` = 1 (R184, R190). -/
def reply (o : Host.Outcome State Fault Refusal) : Option (Response × State) :=
  match o with
  | .next t => t.rsp.map fun r => (r, t)
  | .fault _ => none
  | .refused _ => none

/-- Issue one command and read its response (R189). -/
def issue (c : Command) (s : State) : Option (Response × State) := reply (transact c s)

/-- A command sequence: the responses in order, and the last state (R51, R190). -/
def issueAll : List Command → State → Option (List Response × State)
  | [], s => some ([], s)
  | c :: cs, s =>
    match issue c s with
    | none => none
    | some (r, t) =>
      match issueAll cs t with
      | none => none
      | some (rs, u) => some (r :: rs, u)

/-- What a host drives to issue commands one after another: it offers a command, and then nothing
until the command has completed (R183, R189). -/
def schedule (cs : List Command) : List Pins :=
  cs.flatMap fun c => Pins.offer c :: List.replicate (latency c) Pins.quiet

/-- The two extractors, as a host selects them (R11). -/
inductive Extractor where
  | plus
  | starStar
  deriving DecidableEq, Repr

/-- NEXTP or NEXTSS (R11). -/
def Extractor.instr : Extractor → Instr
  | .plus => .nextp
  | .starStar => .nextss

/-- The 32-bit output in the response of a produce-next command (R70); an error response carries no
output (R164). -/
def outputOf (r : Response) : Option Word :=
  match r.status with
  | .ok => some (wordLane r.data 0)
  | .illegal => none
  | .unseeded => none

/-- The outputs of a list of responses, in order; none if one of them carries no output. -/
def outputsOf : List Response → Option (List Word)
  | [] => some []
  | r :: rs =>
    match outputOf r, outputsOf rs with
    | some w, some ws => some (w :: ws)
    | _, _ => none

/-- Draw `n` consecutive outputs with one extractor. -/
def draw (e : Extractor) (n : Nat) (s : State) : Option (List Word × State) :=
  match issueAll (List.replicate n (encode e.instr)) s with
  | none => none
  | some (rs, t) => (outputsOf rs).map fun ws => (ws, t)

/-- `u64 = zext_64(first) | (zext_64(second) << 32)` (R54). -/
def compose64 (first second : Word) : Quad := first.setWidth 64 ||| (second.setWidth 64 <<< 32)

/-- The pseudo-instructions NEXT64P and NEXT64SS (R74): two outputs, packed low word first (R54). -/
def next64 (e : Extractor) (s : State) : Option (Quad × State) :=
  match draw e 2 s with
  | some ([a, b], t) => some (compose64 a b, t)
  | _ => none

/-- The bytes of an output word in little-endian order, byte m in bits 8m+7:8m (R55). -/
def wordBytes (w : Word) : List Byte :=
  [w.extractLsb' 0 8, w.extractLsb' 8 8, w.extractLsb' 16 8, w.extractLsb' 24 8]

/-- `ceil(n/4)`: how many outputs fill n bytes (R55). -/
def fillCount (n : Nat) : Nat := (n + 3) / 4

/-- The buffer of n bytes: the words' little-endian bytes in order, cut after byte n (R55). -/
def fillBytes (n : Nat) (ws : List Word) : List Byte := (ws.flatMap wordBytes).take n

/-- The pseudo-instructions FILLP n and FILLSS n (R74): the last word is produced in full (R55). -/
def fill (e : Extractor) (n : Nat) (s : State) : Option (List Byte × State) :=
  (draw e (fillCount n) s).map fun p => (fillBytes n p.1, p.2)

/-- The four bytes of a word as they lie in the operand, `b(4i+m) = wi[8m+7:8m]` (R74). -/
def seedwBytes (w : Word) : Word :=
  w.extractLsb' 24 8 ++ w.extractLsb' 16 8 ++ w.extractLsb' 8 8 ++ w.extractLsb' 0 8

/-- The pseudo-instruction SEEDW w0, w1, w2, w3 (R74): SEEDB with bytes 4i to 4i+3 from word i. -/
def seedwCommand (w : Words) : Command :=
  ⟨0x05, seedwBytes w.w3 ++ seedwBytes w.w2 ++ seedwBytes w.w1 ++ seedwBytes w.w0⟩

/-- The host's name for one of several blocks (R73, R171). -/
abbrev BlockName := List Char

/-- Several blocks in one system, each with a state of its own (R52, R171). -/
abbrev Blocks := List (BlockName × State)

/-- The block a name stands for: the first with that name. -/
def Blocks.find (n : BlockName) : Blocks → Option State
  | [] => none
  | (m, s) :: bs => if m = n then some s else Blocks.find n bs

/-- The system with the state of the block named `n` replaced. -/
def Blocks.put (n : BlockName) (t : State) : Blocks → Blocks
  | [] => []
  | (m, s) :: bs => if m = n then (m, t) :: bs else (m, s) :: Blocks.put n t bs

/-- Issue one command to the block named `n` (R52, R73): none where no block has that name. The block
is taken to be ready (assumption 11). -/
def Blocks.issue (n : BlockName) (c : Command) (bs : Blocks) : Option (Response × Blocks) :=
  match Blocks.find n bs with
  | none => none
  | some s => (Machine.issue c s).map fun p => (p.1, Blocks.put n p.2 bs)

/-- `A.RDST`, then to block `b` a command made from the words of A's response (R74): the words are
those of `rsp_data`, whatever A's status (assumption 8). The answer is the second response. -/
def Blocks.forward (a b : BlockName) (f : Words → Instr) (bs : Blocks) :
    Option (Response × Blocks) :=
  match Blocks.issue a (encode .rdst) bs with
  | none => none
  | some (r, cs) => Blocks.issue b (encode (f (wordsOf r.data))) cs

/-- The pseudo-instruction CLONE A, B (R74): copy A's state into B. -/
def Blocks.clone (a b : BlockName) (bs : Blocks) : Option (Response × Blocks) :=
  Blocks.forward a b .wrst bs

/-- The pseudo-instruction EQ A, B (R74): equality of two blocks' states. -/
def Blocks.equal (a b : BlockName) (bs : Blocks) : Option (Response × Blocks) :=
  Blocks.forward a b .eqst bs

end Sys2Proof.Machine
end

