-- ==== Sys2Proof/Machine/Assembler.lean ====
section
/-!
DEFINITION. The assembler of R73: one command per line, numbers decimal or hexadecimal, an optional
block name before the mnemonic. It rejects an operand out of range and never truncates one. A line
is a list of characters.
-/

namespace Sys2Proof.Machine

/-- The mnemonics of the opcode map (R66). -/
inductive Mnemonic where
  | nextp
  | nextss
  | jump
  | ljump
  | seedb
  | seed64
  | rdst
  | wrst
  | eqst
  deriving DecidableEq, Repr

/-- The mnemonics as they are written (R73). -/
def mnemonicTable : List (List Char × Mnemonic) :=
  [(['N', 'E', 'X', 'T', 'P'], .nextp),
   (['N', 'E', 'X', 'T', 'S', 'S'], .nextss),
   (['J', 'U', 'M', 'P'], .jump),
   (['L', 'J', 'U', 'M', 'P'], .ljump),
   (['S', 'E', 'E', 'D', 'B'], .seedb),
   (['S', 'E', 'E', 'D', '6', '4'], .seed64),
   (['R', 'D', 'S', 'T'], .rdst),
   (['W', 'R', 'S', 'T'], .wrst),
   (['E', 'Q', 'S', 'T'], .eqst)]

/-- `byte(cmd_data, k) = bk` for the k-th number of the list (R73). -/
def dataOfBytes : List Nat → Data
  | [] => 0
  | b :: bs => (dataOfBytes bs <<< 8) ||| BitVec.ofNat 128 b

/-- `word(cmd_data, i) = wi` for the i-th number of the list (R73). -/
def dataOfWords : List Nat → Data
  | [] => 0
  | w :: ws => (dataOfWords ws <<< 32) ||| BitVec.ofNat 128 w

/-- The command with opcode `op` and no operand (R73). -/
def asmNone (op : Byte) (args : List Nat) : Option Command :=
  if args = [] then some ⟨op, 0⟩ else none

/-- The command with opcode `op` and four operand words, each in 0..2^32-1 (R73). -/
def asmWords (op : Byte) (args : List Nat) : Option Command :=
  if args.length = 4 ∧ ∀ w ∈ args, w < 2 ^ 32 then some ⟨op, dataOfWords args⟩ else none

/-- The encoding of a mnemonic with its operands, none where the number of operands or the value of
one is not what R73 gives. -/
def assemble (m : Mnemonic) (args : List Nat) : Option Command :=
  match m with
  | .nextp => asmNone 0x01 args
  | .nextss => asmNone 0x02 args
  | .jump => asmNone 0x03 args
  | .ljump => asmNone 0x04 args
  | .seedb =>
    if args.length = 16 ∧ ∀ b ∈ args, b < 2 ^ 8 then some ⟨0x05, dataOfBytes args⟩ else none
  | .seed64 =>
    match args with
    | [v] => if v < 2 ^ 64 then some ⟨0x06, BitVec.ofNat 128 v⟩ else none
    | _ => none
  | .rdst => asmNone 0x07 args
  | .wrst => asmWords 0x08 args
  | .eqst => asmWords 0x09 args

/-- A blank between the parts of a line. -/
def isBlank (c : Char) : Bool := c == ' ' || c == '\t'

/-- A piece of a line without the blanks around it. -/
def trim (cs : List Char) : List Char := ((cs.dropWhile isBlank).reverse.dropWhile isBlank).reverse

/-- The pieces between the occurrences of a separator. -/
def splitAtChar (sep : Char) : List Char → List (List Char)
  | [] => [[]]
  | c :: cs =>
    match splitAtChar sep cs with
    | [] => [[c]]
    | p :: ps => if c = sep then [] :: p :: ps else (c :: p) :: ps

/-- A decimal digit. -/
def decDigit (c : Char) : Option Nat :=
  if 48 ≤ c.toNat ∧ c.toNat ≤ 57 then some (c.toNat - 48) else none

/-- A hexadecimal digit, in capitals or not. -/
def hexDigit (c : Char) : Option Nat :=
  if 65 ≤ c.toNat ∧ c.toNat ≤ 70 then some (c.toNat - 55)
  else if 97 ≤ c.toNat ∧ c.toNat ≤ 102 then some (c.toNat - 87)
  else decDigit c

/-- The number that digits write in a base, the value so far being `acc`. -/
def digitsValue (digit : Char → Option Nat) (base : Nat) : List Char → Nat → Option Nat
  | [], acc => some acc
  | c :: cs, acc =>
    match digit c with
    | some d => digitsValue digit base cs (acc * base + d)
    | none => none

/-- A number, decimal or `0x` hexadecimal (R73); at least one digit. -/
def parseNumber (cs : List Char) : Option Nat :=
  match cs with
  | [] => none
  | '0' :: 'x' :: [] => none
  | '0' :: 'x' :: ds => digitsValue hexDigit 16 ds 0
  | ds => digitsValue decDigit 10 ds 0

/-- All the numbers of an operand list, none where one of them is no number. -/
def parseNumbers : List (List Char) → Option (List Nat)
  | [] => some []
  | p :: ps =>
    match parseNumber (trim p), parseNumbers ps with
    | some n, some ns => some (n :: ns)
    | _, _ => none

/-- The operands of a line, separated by commas; a blank rest has none. -/
def parseOperands (cs : List Char) : Option (List Nat) :=
  if trim cs = [] then some [] else parseNumbers (splitAtChar ',' cs)

/-- The mnemonic that characters spell. -/
def parseMnemonic (cs : List Char) : Option Mnemonic := mnemonicTable.lookup cs

/-- One line: an optional block name with a full stop, a mnemonic and its operands; the answer is the
block name and the command (R73). -/
def parseLine (line : List Char) : Option (Option BlockName × Command) :=
  let cs := trim line
  let head := cs.takeWhile fun c => !isBlank c
  let rest := cs.dropWhile fun c => !isBlank c
  let split : Option (Option BlockName × List Char) :=
    match splitAtChar '.' head with
    | [m] => some (none, m)
    | [n, m] => if n = [] then none else some (some n, m)
    | _ => none
  match split with
  | none => none
  | some (n, m) =>
    match parseMnemonic m, parseOperands rest with
    | some k, some args => (assemble k args).map fun c => (n, c)
    | _, _ => none

end Sys2Proof.Machine
end

