-- ==== Sys2Proof/Safety.lean ====
section
/-!
DEFINITION. What the claims call a good state: the port invariant that every edge keeps, the
invariant that keeps the generator off the all-zero state, and the notion of a step that goes on.
-/

namespace Sys2Proof

/-- How the ports and the generator fit together between two edges. -/
structure Machine.PortInv (s : Machine.State) : Prop where
  /-- After a reset edge SEEDED = 0, S holds no value and `rsp_valid` = 0 (R180). -/
  reset_clears : s.phase = .inReset → s.gen = .unseeded ∧ s.rsp = none
  /-- `rsp_valid` is 0 from acceptance to completion (R184). -/
  busy_silent : ∀ c n, s.phase = .busy c n → s.rsp = none
  /-- An idle block without a response has completed no command since reset, so it is unseeded. -/
  fresh_unseeded : s.phase = .idle → s.rsp = none → s.gen = .unseeded
  /-- A held response whose status is not OK has all-zero data (R70). -/
  error_data_zero : ∀ r, s.rsp = some r → r.status ≠ .ok → r.data = 0
  /-- A held UNSEEDED was answered because SEEDED = 0, and nothing has changed since (R162). -/
  unseeded_status : ∀ r, s.rsp = some r → r.status = .unseeded → s.gen = .unseeded

/-- The generator is not in the all-zero state (R24); an unseeded generator holds no state. -/
def Machine.NonZero (s : Machine.State) : Prop := s.gen ≠ .seeded Words.zero

/-- No WRST of four zero words is in progress or will be offered by the host: the duty of R188. -/
def Machine.NoZeroWrite (s : Machine.State) : Prop :=
  (∀ c n, s.phase = .busy c n → decode c ≠ .ok (.wrst Words.zero)) ∧
    ∀ p ∈ s.inputs, decode p.command ≠ .ok (.wrst Words.zero)

/-- An outcome in which the machine goes on. -/
def Machine.GoesOn (o : Host.Outcome Machine.State Machine.Fault Machine.Refusal) : Prop :=
  ∃ t, o = .next t

end Sys2Proof
end

