-- ==== Sys2Proof/Certificates/Slice0/Obligations.lean ====
section
/-!
DEFINITION. The statements for the provers, from the numbered rules of spec/. A state in them is any
state, reachable or not, unless a premise says otherwise. "Completes as" a state means that `exec`
answers exactly that next state, so that every field the state does not name is unchanged.
-/

open Sys2Proof Sys2Proof.Machine

/-! ### Reset and the ports -/

/-- R31: the reset value of every piece of state, and no command can read S until SEEDED = 1. -/
def Obligations.ResetLeavesNoValue : Prop :=
  State.reset.gen = .unseeded ∧ State.reset.seeded = false ∧ State.reset.rspValid = false ∧
    State.reset.rspStatus = none ∧ State.reset.rspData = none ∧ State.reset.cmdReady = true ∧
    (∀ c n, State.reset.phase ≠ .busy c n) ∧
    ∀ s : State, s.seeded = false → ∀ i, needsState i = true →
      exec i s = .next { s with phase := .idle, rsp := some ⟨.unseeded, 0⟩ }

/-- R180: an edge with `rst` = 1 clears SEEDED, leaves S with no value, abandons any command without
a response and drives `cmd_ready` = 0 (for as long as `rst` stays 1) and `rsp_valid` = 0; at the
first edge with `rst` = 0 the block is idle with `cmd_ready` = 1, `rsp_valid` = 0 and SEEDED = 0. -/
def Obligations.ResetEdgeClearsTheBlock : Prop :=
  ∀ s : State, s.pins.rst = true → ∃ t : State, step s = .next t ∧
    t.seeded = false ∧ t.gen = .unseeded ∧ (∀ c n, t.phase ≠ .busy c n) ∧
    (t.pins.rst = true → t.cmdReady = false) ∧ t.rspValid = false ∧ t.inputs = s.inputs.tail ∧
    (t.pins.rst = false → t.cmdReady = true) ∧
    (t.pins.rst = false → t.pins.cmdValid = false → ∃ u : State, step t = .next u ∧
      u.phase = .idle ∧ u.cmdReady = true ∧ u.rspValid = false ∧ u.seeded = false)

/-- The model's reading of R180 and R183 (assumption 2): a command offered at the first edge with
`rst` = 0 is accepted at that edge, because the block is ready there. -/
def Obligations.FirstEdgeAfterResetAccepts : Prop :=
  ∀ (s : State) (c : Command) (rest : List Pins), s.phase = .inReset →
    s.inputs = Pins.offer c :: rest →
    step s = .next { s with phase := .busy c (latency c - 1), rsp := none, inputs := rest }

/-- R183: a command is accepted exactly at an edge with `rst` = 0, `cmd_valid` = 1 and the block
ready; it is sampled there; until it completes `cmd_ready` = 0 and the command inputs are ignored,
so that at most one command is in progress; and the command that completes is the one that was
accepted, so that commands execute in acceptance order. -/
def Obligations.AcceptedExactlyWhenReady : Prop :=
  (∀ s : State, s.pins.rst = false → s.cmdReady = true → s.pins.cmdValid = true →
    step s = .next { s with
      phase := .busy ⟨s.pins.cmdOp, s.pins.cmdData⟩
        (latency ⟨s.pins.cmdOp, s.pins.cmdData⟩ - 1),
      rsp := none, inputs := s.inputs.tail }) ∧
  (∀ (s : State) (c : Command) (n : Nat), s.phase = .busy c n → s.cmdReady = false ∧
    ∀ (p q : Pins) (rest : List Pins), p.rst = q.rst →
      step { s with inputs := p :: rest } = step { s with inputs := q :: rest }) ∧
  (∀ (s t : State) (c : Command) (n : Nat), step s = .next t → t.phase = .busy c n →
    s.pins.rst = false ∧
      (s.phase = .busy c (n + 1) ∨
        (s.cmdReady = true ∧ s.pins.cmdValid = true ∧ c = s.pins.command))) ∧
  (∀ (s : State) (c : Command) (n : Nat), s.pins.rst = false →
    (s.phase = .busy c (n + 1) →
      step s = .next { s with phase := .busy c n, inputs := s.inputs.tail }) ∧
    (s.phase = .busy c 0 → step s = complete c { s with inputs := s.inputs.tail }))

/-- R184: from a ready block, a command completes exactly `latency` cycles after its acceptance, at
least one; until then `cmd_ready` and `rsp_valid` are 0; at completion the command's state change is
applied, its response is driven with `rsp_valid` = 1 and `cmd_ready` = 1, and both are held until the
next command is accepted; while `rsp_valid` = 0 the response ports hold no value. -/
def Obligations.CommandCompletesAfterItsLatency : Prop :=
  (∀ c, 1 ≤ latency c) ∧
  (∀ (s : State) (c : Command) (rest : List Pins), s.cmdReady = true →
    s.inputs = Pins.offer c :: rest → (∀ p ∈ rest.take (latency c), p.rst = false) →
    (∀ k < latency c, ∃ t : State, Host.Core.run core (k + 1) s = .next t ∧
      t.cmdReady = false ∧ t.rspValid = false ∧ t.gen = s.gen) ∧
    ∃ (t : State) (r : Response), Host.Core.run core (latency c + 1) s = .next t ∧
      complete c { s with inputs := rest.drop (latency c) } = .next t ∧
      t.rsp = some r ∧ t.cmdReady = true) ∧
  (∀ s : State, s.phase = .idle → s.pins.rst = false → s.pins.cmdValid = false →
    step s = .next { s with inputs := s.inputs.tail }) ∧
  (∀ s : State, s.rspValid = false → s.rspStatus = none ∧ s.rspData = none)

/-- R69: a completion drives the completed command's response; but for reset, `rsp_valid` goes down
exactly at the next acceptance; between the two the response is held. -/
def Obligations.ResponseHeldUntilNextAcceptance : Prop :=
  ∀ s t : State, step s = .next t → s.pins.rst = false →
    (∀ c, s.phase = .busy c 0 →
      complete c { s with inputs := s.inputs.tail } = .next t ∧ ∃ r, t.rsp = some r) ∧
    ((∀ c n, s.phase ≠ .busy c n) → s.pins.cmdValid = true → t.rsp = none) ∧
    ((∀ c, s.phase ≠ .busy c 0) → (s.pins.cmdValid = false ∨ ∃ c n, s.phase = .busy c n) →
      t.rsp = s.rsp)

/-- The machine's step: when the command in progress completes and decodes to an instruction, the
step is that instruction's meaning with the edge's input pins taken off, and a command that does not
decode answers ILLEGAL. The last clause is about the model's own placement of a command: that
`withFetchWord` puts the command with the table's bits in progress with one edge left, and how those
bits are numbered, is the model's choice (assumption 6) and no rule of the spec; the very next step
runs a command so placed. -/
def Obligations.StepRunsTheDecodedInstruction : Prop :=
  (∀ (s : State) (c : Command) (i : Instr), s.phase = .busy c 0 → s.pins.rst = false →
    decode c = .ok i → step s = exec i { s with inputs := s.inputs.tail }) ∧
  (∀ (s : State) (c : Command) (e : Illegal), s.phase = .busy c 0 → s.pins.rst = false →
    decode c = .error e →
    step s = .next { s with
      phase := .idle, rsp := some ⟨.illegal, 0⟩, inputs := s.inputs.tail }) ∧
  (∀ (s : State) (nbits w : Nat) (i : Instr), decodeTableWord nbits w = some i →
    step (s.withFetchWord nbits w) =
      exec i { s with phase := .busy (commandOfBits nbits w) 0, rsp := none })

/-- No state stops the machine: there are no faults and no refusals (R160, R165, R189). -/
def Obligations.StepAlwaysGoesOn : Prop :=
  (∀ s, GoesOn (step s)) ∧ (∀ i s, GoesOn (exec i s)) ∧ ∀ c s, GoesOn (complete c s)

/-- The port invariant holds at reset. -/
def Obligations.PortInvAtReset : Prop := PortInv State.reset

/-- Every step keeps the port invariant: after a reset edge there is no state and no response, a
command in progress has no response, an idle block without a response is unseeded, an error response
has zero data, and an UNSEEDED response stands only before an unseeded generator. -/
def Obligations.PortInvKept : Prop :=
  ∀ s t : State, PortInv s → step s = .next t → PortInv t

/-- R173: between commands the block is idle and holds S and SEEDED (and its response) for any number
of edges at which the host offers nothing. -/
def Obligations.IdleBlockHoldsItsState : Prop :=
  ∀ (n : Nat) (s : State), s.phase = .idle →
    (∀ p ∈ s.inputs.take n, p.rst = false ∧ p.cmdValid = false) →
    Host.Core.run core n s = .next { s with inputs := s.inputs.drop n }

/-- R51, R190: a host that offers each command after the one before it has completed gets, edge by
edge and for every latency, exactly the untimed sequence: the same last state, and one response for
each command in order. -/
def Obligations.ScheduledCommandsRunInOrder : Prop :=
  ∀ (cs : List Command) (s : State) (rest : List Pins), s.cmdReady = true →
    s.inputs = schedule cs ++ rest →
    ∃ (rs : List Response) (t : State), issueAll cs { s with inputs := rest } = some (rs, t) ∧
      rs.length = cs.length ∧ Host.Core.run core (schedule cs).length s = .next t

/-- R185: S and SEEDED change only at the edge that completes a command, never in the middle of one;
and a reset edge erases every trace of what the block was doing. -/
def Obligations.StateChangesOnlyAtCompletion : Prop :=
  (∀ s t : State, step s = .next t → s.pins.rst = false → (∀ c, s.phase ≠ .busy c 0) →
    t.gen = s.gen) ∧
  (∀ s t : State, s.inputs = t.inputs → s.pins.rst = true → step s = step t)

/-- R23: SEEDED is 0 exactly while S holds no value; reset clears it, no command does; and with
`rst` = 0 it is set exactly by the completion of a SEEDB, SEED64 or WRST. -/
def Obligations.SeededSetOnlyByConstruction : Prop :=
  (∀ s : State, s.seeded = false ↔ s.gen = .unseeded) ∧
  ∀ s t : State, step s = .next t →
    (s.pins.rst = true → t.seeded = false) ∧
    (s.pins.rst = false → s.seeded = true → t.seeded = true) ∧
    (s.pins.rst = false → s.seeded = false →
      (t.seeded = true ↔ ∃ c i, s.phase = .busy c 0 ∧ decode c = .ok i ∧
        ((∃ b, i = .seedb b) ∨ (∃ v, i = .seed64 v) ∨ ∃ w, i = .wrst w)))

/-! ### Encoding -/

/-- Decoding an encoded instruction gives it back, with every operand at every value. -/
def Obligations.DecodeOfEncode : Prop := ∀ i : Instr, decode (encode i) = .ok i

/-- Each command has at most one meaning, and no bit of a legal command is dropped. -/
def Obligations.EncodeOfDecode : Prop :=
  ∀ (c : Command) (i : Instr), decode c = .ok i → encode i = c

/-- R67: what a legal command is (formats N, Q, and the free B and W); the decoder accepts exactly the
legal commands, and an illegal command raises ILLEGAL: it changes no state and returns data zero. -/
def Obligations.DecodesExactlyTheLegal : Prop :=
  (∀ (c : Command) (op : Nat), op = (c.op.extractLsb' 0 4).toNat →
    (c.legal = true ↔ c.op.extractLsb' 4 4 = 0 ∧ 0x1 ≤ op ∧ op ≤ 0x9 ∧
      ((op = 1 ∨ op = 2 ∨ op = 3 ∨ op = 4 ∨ op = 7) → c.data = 0) ∧
      (op = 6 → c.data.extractLsb' 64 64 = 0))) ∧
  (∀ c : Command, (∃ i, decode c = .ok i) ↔ c.legal = true) ∧
  ∀ (c : Command) (s : State), c.legal = false →
    complete c s = .next { s with phase := .idle, rsp := some ⟨.illegal, 0⟩ }

/-- R161: the causes of ILLEGAL, and its effect. OP is `cmd_op[3:0]`. -/
def Obligations.IllegalCausesAndEffect : Prop :=
  ∀ (c : Command) (s : State) (op : Nat), op = (c.op.extractLsb' 0 4).toNat →
    ((c.op.extractLsb' 4 4 ≠ 0 ∨ op = 0 ∨ 0xA ≤ op ∨
        ((op = 1 ∨ op = 2 ∨ op = 3 ∨ op = 4 ∨ op = 7) ∧ c.data ≠ 0) ∨
        (op = 6 ∧ c.data.extractLsb' 64 64 ≠ 0)) →
      complete c s = .next { s with phase := .idle, rsp := some ⟨.illegal, 0⟩ }) ∧
    (¬(c.op.extractLsb' 4 4 ≠ 0 ∨ op = 0 ∨ 0xA ≤ op ∨
        ((op = 1 ∨ op = 2 ∨ op = 3 ∨ op = 4 ∨ op = 7) ∧ c.data ≠ 0) ∨
        (op = 6 ∧ c.data.extractLsb' 64 64 ≠ 0)) →
      ∃ t : State, complete c s = .next t ∧ t.rspStatus ≠ some 1)

/-- Commands written out from R66's opcode map and R62's formats decode to what they stand for, and
reserved ones do not. -/
def Obligations.WrittenOutCommandsDecode : Prop :=
  decode ⟨0x01, 0⟩ = .ok .nextp ∧ decode ⟨0x02, 0⟩ = .ok .nextss ∧
  decode ⟨0x03, 0⟩ = .ok .jump ∧ decode ⟨0x04, 0⟩ = .ok .ljump ∧
  decode ⟨0x05, 0x00000004_00000003_00000002_00000001⟩ =
    .ok (.seedb 0x00000004_00000003_00000002_00000001) ∧
  decode ⟨0x06, 0x2A⟩ = .ok (.seed64 42) ∧
  decode ⟨0x06, 0x00000000_00000001_00000000_00000000⟩ = .error .mustBeZero ∧
  decode ⟨0x07, 0⟩ = .ok .rdst ∧
  decode ⟨0x08, 0x00003000_00000402_00000000_00000007⟩ = .ok (.wrst ⟨7, 0, 0x402, 0x3000⟩) ∧
  decode ⟨0x09, 0x00000005_00000003_00000002_00000001⟩ = .ok (.eqst ⟨1, 2, 3, 5⟩) ∧
  decode ⟨0x03, 1⟩ = .error .mustBeZero ∧ decode ⟨0x00, 0⟩ = .error .reservedOp ∧
  decode ⟨0x0A, 0⟩ = .error .reservedOp ∧ decode ⟨0x11, 0⟩ = .error .reservedRsv

/-- R42: seed byte k becomes bits 8*(k mod 4)+7 : 8*(k mod 4) of state word k div 4. -/
def Obligations.SeedBytesAreLittleEndian : Prop :=
  (∀ (b : Data) (k : Nat), k < 16 →
    (wordLane (dataOf (seedWords b)) (k / 4)).extractLsb' (8 * (k % 4)) 8 = byteLane b k) ∧
  (∀ w : Words, wordLane (dataOf w) 0 = w.w0 ∧ wordLane (dataOf w) 1 = w.w1 ∧
    wordLane (dataOf w) 2 = w.w2 ∧ wordLane (dataOf w) 3 = w.w3) ∧
  seedWords 0x00000004_00000003_00000002_00000001 = ⟨1, 2, 3, 4⟩

/-- R45, last sentence, which the spec marks as its own inference: a SEEDB operand that is not all
zero and a WRST operand with the same 128 bits give the same state. -/
def Obligations.NonzeroSeedBytesAreTheWords : Prop :=
  ∀ (d : Data) (s : State), d ≠ 0 → complete ⟨0x05, d⟩ s = complete ⟨0x08, d⟩ s

/-! ### The commands: what each completes as, when it answers UNSEEDED, when ILLEGAL -/

/-- R85: NEXTP. -/
def Obligations.NextpResult : Prop :=
  (∀ (s : State) (w : Words), s.gen = .seeded w →
    exec .nextp s = .next { s with
      gen := .seeded (transition w), phase := .idle,
      rsp := some ⟨.ok, (w.w0 + w.w3).setWidth 128⟩ }) ∧
  (∀ s : State, s.gen = .unseeded →
    exec .nextp s = .next { s with phase := .idle, rsp := some ⟨.unseeded, 0⟩ }) ∧
  ∀ (d : Data) (s : State), complete ⟨0x01, d⟩ s =
    if d = 0 then exec .nextp s
    else .next { s with phase := .idle, rsp := some ⟨.illegal, 0⟩ }

/-- R86: NEXTSS. -/
def Obligations.NextssResult : Prop :=
  (∀ (s : State) (w : Words), s.gen = .seeded w →
    exec .nextss s = .next { s with
      gen := .seeded (transition w), phase := .idle,
      rsp := some ⟨.ok, ((w.w1 * 5).rotateLeft 7 * 9).setWidth 128⟩ }) ∧
  (∀ s : State, s.gen = .unseeded →
    exec .nextss s = .next { s with phase := .idle, rsp := some ⟨.unseeded, 0⟩ }) ∧
  ∀ (d : Data) (s : State), complete ⟨0x02, d⟩ s =
    if d = 0 then exec .nextss s
    else .next { s with phase := .idle, rsp := some ⟨.illegal, 0⟩ }

/-- R122: JUMP advances the state by 2^64 transitions. -/
def Obligations.JumpResult : Prop :=
  (∀ (s : State) (w : Words), s.gen = .seeded w →
    exec .jump s = .next { s with
      gen := .seeded (jumpPoly jumpConst w), phase := .idle, rsp := some ⟨.ok, 0⟩ } ∧
    exec .jump s = .next { s with
      gen := .seeded (transitionN (2 ^ 64) w), phase := .idle, rsp := some ⟨.ok, 0⟩ }) ∧
  (∀ s : State, s.gen = .unseeded →
    exec .jump s = .next { s with phase := .idle, rsp := some ⟨.unseeded, 0⟩ }) ∧
  ∀ (d : Data) (s : State), complete ⟨0x03, d⟩ s =
    if d = 0 then exec .jump s
    else .next { s with phase := .idle, rsp := some ⟨.illegal, 0⟩ }

/-- R123: LJUMP advances the state by 2^96 transitions. -/
def Obligations.LjumpResult : Prop :=
  (∀ (s : State) (w : Words), s.gen = .seeded w →
    exec .ljump s = .next { s with
      gen := .seeded (jumpPoly ljumpConst w), phase := .idle, rsp := some ⟨.ok, 0⟩ } ∧
    exec .ljump s = .next { s with
      gen := .seeded (transitionN (2 ^ 96) w), phase := .idle, rsp := some ⟨.ok, 0⟩ }) ∧
  (∀ s : State, s.gen = .unseeded →
    exec .ljump s = .next { s with phase := .idle, rsp := some ⟨.unseeded, 0⟩ }) ∧
  ∀ (d : Data) (s : State), complete ⟨0x04, d⟩ s =
    if d = 0 then exec .ljump s
    else .next { s with phase := .idle, rsp := some ⟨.illegal, 0⟩ }

/-- R100: SEEDB, seeded or not; only `cmd_op` can make it illegal. -/
def Obligations.SeedbResult : Prop :=
  (∀ (b : Data) (s : State), exec (.seedb b) s = .next { s with
    gen := .seeded (seedWords (if b = 0 then Config.zeroSeedSubst else b)), phase := .idle,
    rsp := some ⟨.ok, 0⟩ }) ∧
  ∀ (d : Data) (s : State), complete ⟨0x05, d⟩ s = exec (.seedb d) s

/-- SEED64 (R103), seeded or not: two SplitMix64 steps (R102), low words first (R43). That the zero check
of R103 and R104 never fires, so that the state is the two outputs, is the spec's own inference (R105),
and so is the number of the last clause, a corner case of R103 that the spec marks as derived. -/
def Obligations.Seed64Result : Prop :=
  (∀ (v : Quad) (s : State), exec (.seed64 v) s = .next { s with
    gen := .seeded
      ⟨(splitMix v).2.extractLsb' 0 32, (splitMix v).2.extractLsb' 32 32,
        (splitMix (splitMix v).1).2.extractLsb' 0 32,
        (splitMix (splitMix v).1).2.extractLsb' 32 32⟩,
    phase := .idle, rsp := some ⟨.ok, 0⟩ }) ∧
  (∀ (d : Data) (s : State), complete ⟨0x06, d⟩ s =
    if d.extractLsb' 64 64 = 0 then exec (.seed64 (d.extractLsb' 0 64)) s
    else .next { s with phase := .idle, rsp := some ⟨.illegal, 0⟩ }) ∧
  splitMixWords 0 = ⟨0x7B1DCDAF, 0xE220A839, 0xA1B965F4, 0x6E789E6A⟩

/-- R140: RDST; S does not change. -/
def Obligations.RdstResult : Prop :=
  (∀ (s : State) (w : Words), s.gen = .seeded w → ∃ d : Data,
    exec .rdst s = .next { s with phase := .idle, rsp := some ⟨.ok, d⟩ } ∧
    wordLane d 0 = w.w0 ∧ wordLane d 1 = w.w1 ∧ wordLane d 2 = w.w2 ∧ wordLane d 3 = w.w3) ∧
  (∀ s : State, s.gen = .unseeded →
    exec .rdst s = .next { s with phase := .idle, rsp := some ⟨.unseeded, 0⟩ }) ∧
  ∀ (d : Data) (s : State), complete ⟨0x07, d⟩ s =
    if d = 0 then exec .rdst s
    else .next { s with phase := .idle, rsp := some ⟨.illegal, 0⟩ }

/-- R141: WRST, verbatim, seeded or not; RDST then WRST of the returned words leaves S unchanged. -/
def Obligations.WrstResult : Prop :=
  (∀ (w : Words) (s : State), exec (.wrst w) s = .next { s with
    gen := .seeded w, phase := .idle, rsp := some ⟨.ok, 0⟩ }) ∧
  (∀ (d : Data) (s : State), complete ⟨0x08, d⟩ s =
    exec (.wrst ⟨wordLane d 0, wordLane d 1, wordLane d 2, wordLane d 3⟩) s) ∧
  ∀ (s t u : State) (d : Data), s.seeded = true → exec .rdst s = .next t → t.rspData = some d →
    complete ⟨0x08, d⟩ t = .next u → u.gen = s.gen

/-- R142: EQST, exact on all 128 bits; S does not change. -/
def Obligations.EqstResult : Prop :=
  (∀ (s : State) (v w : Words), s.gen = .seeded v →
    exec (.eqst w) s = .next { s with
      phase := .idle, rsp := some ⟨.ok, if v = w then 1 else 0⟩ }) ∧
  (∀ (s : State) (w : Words), s.gen = .unseeded →
    exec (.eqst w) s = .next { s with phase := .idle, rsp := some ⟨.unseeded, 0⟩ }) ∧
  ∀ (d : Data) (s : State), complete ⟨0x09, d⟩ s =
    exec (.eqst ⟨wordLane d 0, wordLane d 1, wordLane d 2, wordLane d 3⟩) s

/-- R160: with SEEDED = 1 every instruction completes with status OK. -/
def Obligations.SeededCommandsReturnOk : Prop :=
  ∀ (i : Instr) (s : State), s.seeded = true →
    ∃ t : State, exec i s = .next t ∧ t.rspStatus = some 0

/-- R162: UNSEEDED is answered exactly by NEXTP, NEXTSS, JUMP, LJUMP, RDST and EQST while SEEDED = 0,
with data zero and no state change; SEEDB, SEED64 and WRST never raise it. -/
def Obligations.UnseededCauseAndEffect : Prop :=
  ∀ (i : Instr) (s : State), ∃ t : State, exec i s = .next t ∧
    (t.rspStatus = some 2 ↔ s.seeded = false ∧
      (i = .nextp ∨ i = .nextss ∨ i = .jump ∨ i = .ljump ∨ i = .rdst ∨ ∃ w, i = .eqst w)) ∧
    (t.rspStatus = some 2 → t = { s with phase := .idle, rsp := some ⟨.unseeded, 0⟩ })

/-- R164: one status for each command, by priority; an error has no effect on S or SEEDED and its
response data is all zero. -/
def Obligations.OneStatusByPriority : Prop :=
  ∀ (c : Command) (s : State), ∃ t : State, complete c s = .next t ∧
    (c.legal = false → t.rspStatus = some 1) ∧
    (∀ i, decode c = .ok i → needsState i = true → s.seeded = false → t.rspStatus = some 2) ∧
    (∀ i, decode c = .ok i → (needsState i = false ∨ s.seeded = true) → t.rspStatus = some 0) ∧
    (t.rspStatus ≠ some 0 → t.gen = s.gen ∧ t.rspData = some 0)

/-- R70: the response data of each command when the status is OK, and zero when it is not. -/
def Obligations.ResponseDataLayout : Prop :=
  ∀ (i : Instr) (s t : State) (r : Response), exec i s = .next t → t.rsp = some r →
    (r.status ≠ .ok → r.data = 0) ∧
    (r.status = .ok → (i = .nextp ∨ i = .nextss) → r.data.extractLsb' 32 96 = 0 ∧
      ∀ w, s.gen = .seeded w → r.data.extractLsb' 0 32 =
        if i = .nextp then w.w0 + w.w3 else (w.w1 * 5).rotateLeft 7 * 9) ∧
    (r.status = .ok → i = .rdst → ∀ w, s.gen = .seeded w →
      wordLane r.data 0 = w.w0 ∧ wordLane r.data 1 = w.w1 ∧
      wordLane r.data 2 = w.w2 ∧ wordLane r.data 3 = w.w3) ∧
    (r.status = .ok → ∀ v, i = .eqst v → r.data.extractLsb' 1 127 = 0 ∧
      ∀ w, s.gen = .seeded w → (r.data.getLsbD 0 = true ↔ w = v)) ∧
    (r.status = .ok → (i = .jump ∨ i = .ljump ∨ (∃ b, i = .seedb b) ∨ (∃ v, i = .seed64 v) ∨
      ∃ w, i = .wrst w) → r.data = 0)

/-- The frame of every instruction (R22, R26): the host's inputs are unchanged; RDST and EQST leave S
and SEEDED as they were, and so does every instruction that answers UNSEEDED; SEEDB, SEED64 and WRST
do not read the state. The block has no other register and no memory (R20, R40). -/
def Obligations.FrameOfEveryInstruction : Prop :=
  (∀ (i : Instr) (s t : State), exec i s = .next t → t.inputs = s.inputs ∧ t.phase = .idle ∧
    ((i = .rdst ∨ ∃ w, i = .eqst w) → t.gen = s.gen) ∧
    (needsState i = true → t.seeded = s.seeded)) ∧
  ∀ (i : Instr) (s t : State), needsState i = false → s.inputs = t.inputs → exec i s = exec i t

/-! ### The transition and the jump engine -/

/-- R80: the closed form of T over the old words, which the spec marks as its own inference (derived
from the pseudocode by substituting each write), and its example. -/
def Obligations.TransitionClosedForm : Prop :=
  (∀ a b c d : Word, transition ⟨a, b, c, d⟩ =
    ⟨a ^^^ b ^^^ d, a ^^^ b ^^^ c, a ^^^ c ^^^ (b <<< 9), (b ^^^ d).rotateLeft 11⟩) ∧
  transition ⟨1, 2, 3, 4⟩ = ⟨0x00000007, 0x00000000, 0x00000402, 0x00003000⟩

/-- R81, without the order of T: T is linear over GF(2), maps zero to zero and is a bijection. That T is
a bijection is the spec's own inference: R81 marks it as computed by the spec's author. -/
def Obligations.TransitionIsLinearBijection : Prop :=
  (∀ x y : Words, transition (x.xor y) = (transition x).xor (transition y)) ∧
  transition Words.zero = Words.zero ∧ Function.Bijective transition

/-- R81: T is linear and a bijection, and its multiplicative order is exactly 2^128 - 1. That T is a
bijection of that order is the spec's own inference: R81 marks it as computed by the spec's author. -/
def Obligations.TransitionOrderIsExact : Prop :=
  (∀ x y : Words, transition (x.xor y) = (transition x).xor (transition y)) ∧
  transition Words.zero = Words.zero ∧ Function.Bijective transition ∧
  ∀ n : Nat, (∀ s, transitionN n s = s) ↔ (2 ^ 128 - 1) ∣ n

/-- R87, last sentence, which the spec marks as its own inference: every non-zero state returns to
itself after exactly 2^128 - 1 transitions and not before. -/
def Obligations.NonzeroPeriodIsExact : Prop :=
  ∀ (w : Words) (n : Nat), w ≠ Words.zero → (transitionN n w = w ↔ (2 ^ 128 - 1) ∣ n)

/-- R87, first part: from a state that is not all zero, no sequence of NEXTP, NEXTSS, JUMP and LJUMP
reaches the all-zero state; zero is the only fixed point of T. For a block with a command still in
progress the statement rests on the model's choice (assumption 11: the running command is dropped) and
on no rule of the spec. -/
def Obligations.NoSequenceReachesZero : Prop :=
  (∀ w : Words, transition w = w ↔ w = Words.zero) ∧
  ∀ (is : List Instr) (s : State) (w : Words), s.gen = .seeded w → w ≠ Words.zero →
    (∀ i ∈ is, i = .nextp ∨ i = .nextss ∨ i = .jump ∨ i = .ljump) →
    ∃ (rs : List Response) (t : State) (v : Words), issueAll (is.map encode) s = some (rs, t) ∧
      t.gen = .seeded v ∧ v ≠ Words.zero

/-- The two variants share one state sequence (R88): after any mix of n produce-next commands the state
is T^n(S), and the k-th response is its own extractor's word of T^k(S).
For a block with a command still in progress the statement rests on the model's choice (assumption
11: the running command is dropped) and on no rule of the spec. -/
def Obligations.VariantsShareOneSequence : Prop :=
  ∀ (es : List Extractor) (s : State) (w : Words), s.gen = .seeded w →
    ∃ t : State,
      issueAll (es.map fun e => encode e.instr) s =
        some (es.mapIdx fun k e => ⟨.ok, (match e with
          | .plus => extractPlus (transitionN k w)
          | .starStar => extractStarStar (transitionN k w)).setWidth 128⟩, t) ∧
      t.gen = .seeded (transitionN es.length w)

/-- R121: the engine's result is the XOR of T^k(S) over the k with c_k = 1, where
c_k = C[k div 32][k mod 32] (R120). The spec marks this closed form as its own inference from the
pseudocode. -/
def Obligations.JumpPolyClosedForm : Prop :=
  ∀ c s : Words, jumpPoly c s =
    (List.range 128).foldl
      (fun acc k =>
        if (wordLane (dataOf c) (k / 32)).getLsbD (k % 32) then acc.xor (transitionN k s) else acc)
      Words.zero

/-- R124: the two constants are powers of T, with the consequences the rule draws. The spec marks both
the equalities and the consequences as its own inference (derived from R80 and R121, computed). -/
def Obligations.JumpsArePowersOfTheTransition : Prop :=
  (∀ s, jumpPoly jumpConst s = transitionN (2 ^ 64) s) ∧
  (∀ s, jumpPoly ljumpConst s = transitionN (2 ^ 96) s) ∧
  (∀ s, jumpPoly jumpConst (jumpPoly jumpConst s) = transitionN (2 ^ 65) s) ∧
  (∀ s, jumpPoly jumpConst (jumpPoly ljumpConst s) = jumpPoly ljumpConst (jumpPoly jumpConst s)) ∧
  (∀ s, jumpPoly jumpConst (transition s) = transition (jumpPoly jumpConst s)) ∧
  (∀ s, jumpPoly ljumpConst (transition s) = transition (jumpPoly ljumpConst s)) ∧
  (∀ s, (jumpPoly jumpConst)^[2 ^ 32] s = jumpPoly ljumpConst s) ∧
  Function.Bijective (jumpPoly jumpConst) ∧ Function.Bijective (jumpPoly ljumpConst) ∧
  jumpPoly jumpConst Words.zero = Words.zero ∧ jumpPoly ljumpConst Words.zero = Words.zero

/-- R126, its part about JUMP (LongJumpedStreamsDoNotOverlap has the part about LJUMP): clones of one
seeded generator jumped different numbers of times give non-overlapping subsequences of 2^64 states
each. (The 2^64-th clone is left out: its subsequence meets the first one's, because the period is
2^128 - 1.) -/
def Obligations.JumpedStreamsDoNotOverlap : Prop :=
  ∀ (w : Words) (j k a b : Nat), w ≠ Words.zero → j < k → k < 2 ^ 64 - 1 → a < 2 ^ 64 →
    b < 2 ^ 64 →
    transitionN a ((jumpPoly jumpConst)^[j] w) ≠ transitionN b ((jumpPoly jumpConst)^[k] w)

/-! ### Seeding and the all-zero state -/

/-- R101: sixteen zero bytes are replaced by `ZERO_SEED_SUBST`, which is not all zero and is
assembled like any other seed, whatever came before. -/
def Obligations.ZeroSeedIsSubstituted : Prop :=
  Config.zeroSeedSubst ≠ 0 ∧ seedWords Config.zeroSeedSubst ≠ Words.zero ∧
  ∀ s : State, exec (.seedb 0) s = exec (.seedb Config.zeroSeedSubst) s ∧
    exec (.seedb 0) s = .next { s with
      gen := .seeded (seedWords Config.zeroSeedSubst), phase := .idle, rsp := some ⟨.ok, 0⟩ }

/-- R105, which the spec marks as its own inference from R102: SEED64 never produces an all-zero state;
each SplitMix64 output is a bijective function of the incremented state. -/
def Obligations.Seed64NeverAllZero : Prop :=
  (∀ v : Quad, splitMixWords v ≠ Words.zero) ∧
  Function.Bijective fun x' : Quad => (splitMix (x' - 0x9E3779B97F4A7C15)).2

/-- R24: SEEDB and SEED64 always establish a state that is not all zero; every other instruction but
WRST of four zero words keeps it, and that one breaks it. -/
def Obligations.OnlyZeroWriteReachesZero : Prop :=
  transition Words.zero = Words.zero ∧
  (∀ (s t : State) (b : Data), exec (.seedb b) s = .next t → NonZero t) ∧
  (∀ (s t : State) (v : Quad), exec (.seed64 v) s = .next t → NonZero t) ∧
  ∀ (i : Instr) (s t : State), NonZero s → exec i s = .next t →
    (NonZero t ↔ i ≠ .wrst Words.zero)

/-- R188 as an invariant of every step: while the host keeps its duty, the generator is never in the
all-zero state. -/
def Obligations.NonZeroKept : Prop :=
  ∀ s t : State, NonZero s → NoZeroWrite s → step s = .next t → NonZero t ∧ NoZeroWrite t

/-- R141, R188: the all-zero state is a fixed point of NEXTP, NEXTSS, JUMP and LJUMP: from it each of
the four answers OK with data 0 and leaves the state zero. It is so of these four only: SEEDB, SEED64
and a WRST of other words leave the zero state (OnlyZeroWriteReachesZero). -/
def Obligations.ZeroStateIsAFixedPoint : Prop :=
  ∀ (s : State) (i : Instr), s.gen = .seeded Words.zero →
    (i = .nextp ∨ i = .nextss ∨ i = .jump ∨ i = .ljump) →
    exec i s = .next { s with phase := .idle, rsp := some ⟨.ok, 0⟩ }

/-- R49, R122, R123: SEEDB, SEED64 and WRST are idempotent (the spec's own inference), RDST and EQST
can be repeated; NEXTP, NEXTSS, JUMP and LJUMP are not idempotent: from a state that is not all zero
the second one leaves another state than the first. -/
def Obligations.RepeatingACommand : Prop :=
  (∀ (i : Instr) (s t u : State), (needsState i = false ∨ i = .rdst ∨ ∃ w, i = .eqst w) →
    exec i s = .next t → exec i t = .next u → u = t) ∧
  ∀ (i : Instr) (s t u : State) (w : Words),
    (i = .nextp ∨ i = .nextss ∨ i = .jump ∨ i = .ljump) → s.gen = .seeded w → w ≠ Words.zero →
    exec i s = .next t → exec i t = .next u → u.gen ≠ t.gen

/-! ### Several blocks and the host -/

/-- R52: a command on one block never affects another, and does to its own block what it would do
to it alone. -/
def Obligations.BlocksShareNoState : Prop :=
  ∀ (n m : BlockName) (c : Command) (bs cs : Blocks) (r : Response),
    Blocks.issue n c bs = some (r, cs) →
    (m ≠ n → Blocks.find m cs = Blocks.find m bs) ∧
    ∃ s t, Blocks.find n bs = some s ∧ issue c s = some (r, t) ∧ Blocks.find n cs = some t

/-- R187: two blocks with equal states produce equal output streams, and stay equal.
For a block with a command still in progress the statement rests on the model's choice (assumption
11: the running command is dropped) and on no rule of the spec. -/
def Obligations.EqualStatesGiveEqualStreams : Prop :=
  ∀ (cs : List Command) (s t : State), s.gen = t.gen →
    ∃ (rs : List Response) (s' t' : State), issueAll cs s = some (rs, s') ∧
      issueAll cs t = some (rs, t') ∧ s'.gen = t'.gen

/-- R74: CLONE A, B copies A's state into B, and EQ A, B returns 1 exactly when the states agree.
For blocks with a command still in progress the statement rests on the model's choice (assumption
11: the running command is dropped) and on no rule of the spec. -/
def Obligations.CloneCopiesAndEqCompares : Prop :=
  (∀ (a b : BlockName) (bs : Blocks) (s t : State) (w : Words), Blocks.find a bs = some s →
    Blocks.find b bs = some t → s.gen = .seeded w →
    ∃ (r : Response) (cs : Blocks) (s' t' : State), Blocks.clone a b bs = some (r, cs) ∧
      r = ⟨.ok, 0⟩ ∧ Blocks.find a cs = some s' ∧ Blocks.find b cs = some t' ∧
      s'.gen = .seeded w ∧ t'.gen = .seeded w) ∧
  ∀ (a b : BlockName) (bs : Blocks) (s t : State) (v w : Words), Blocks.find a bs = some s →
    Blocks.find b bs = some t → s.gen = .seeded v → t.gen = .seeded w →
    ∃ cs : Blocks, Blocks.equal a b bs = some (⟨.ok, if v = w then 1 else 0⟩, cs)

/-- A 64-bit output is two consecutive 32-bit outputs of one extractor, the first in the low half (R54).
For a block with a command still in progress the statement rests on the model's choice (assumption
11: the running command is dropped) and on no rule of the spec. -/
def Obligations.WideOutputIsLowWordFirst : Prop :=
  ∀ (e : Extractor) (s : State) (w : Words), s.gen = .seeded w →
    ∃ (q : Quad) (t : State), next64 e s = some (q, t) ∧
      t.gen = .seeded (transition (transition w)) ∧
      (e = .plus → q.extractLsb' 0 32 = extractPlus w ∧
        q.extractLsb' 32 32 = extractPlus (transition w)) ∧
      (e = .starStar → q.extractLsb' 0 32 = extractStarStar w ∧
        q.extractLsb' 32 32 = extractStarStar (transition w))

/-- R55: buffer byte 4j + m is byte m of output j; the buffer has exactly n bytes, and the state
advances by ceil(n/4) steps. Two of these are the spec's own inference: that a cut last word keeps its
low-order bytes is its reading (D19), and the count of steps is marked as derived from the source's
sentence. For a block with a command still in progress the statement rests on the model's choice
(assumption 11: the running command is dropped) and on no rule of the spec. -/
def Obligations.ByteFillIsLittleEndian : Prop :=
  ∀ (e : Extractor) (n : Nat) (s : State) (w : Words), s.gen = .seeded w →
    ∃ (bytes : List Byte) (t : State), fill e n s = some (bytes, t) ∧ bytes.length = n ∧
      t.gen = .seeded (transitionN ((n + 3) / 4) w) ∧
      ∀ j m, m < 4 → 4 * j + m < n →
        bytes[4 * j + m]? = some ((match e with
          | .plus => extractPlus (transitionN j w)
          | .starStar => extractStarStar (transitionN j w)).extractLsb' (8 * m) 8)

/-- R74, SEEDW: four little-endian words as a SEEDB seed. -/
def Obligations.SeedwSeedsFromWords : Prop :=
  ∀ (w : Words) (s : State), decode (seedwCommand w) = .ok (.seedb (dataOf w)) ∧
    (w ≠ Words.zero → complete (seedwCommand w) s = exec (.wrst w) s)

/-- R73, row by row: the opcode of each of the nine mnemonics; NEXTP, NEXTSS, JUMP, LJUMP and RDST
take no operand; SEEDB takes sixteen bytes, byte k to byte lane k; SEED64 takes one number below 2^64
to `cmd_data[63:0]`; WRST and EQST take four numbers below 2^32, number i to word lane i; a wrong
number of operands or one out of range is rejected, never truncated; each mnemonic is spelled as the
table has it. So every instruction can be written, and what is assembled is legal. -/
def Obligations.AssemblerNeverTruncates : Prop :=
  (∀ i : Instr, ∃ (m : Mnemonic) (args : List Nat), assemble m args = some (encode i)) ∧
  (∀ (m : Mnemonic) (args : List Nat) (c : Command), assemble m args = some c → c.legal = true) ∧
  (∀ args : List Nat,
    assemble .nextp args = (if args = [] then some ⟨0x01, 0⟩ else none) ∧
    assemble .nextss args = (if args = [] then some ⟨0x02, 0⟩ else none) ∧
    assemble .jump args = (if args = [] then some ⟨0x03, 0⟩ else none) ∧
    assemble .ljump args = (if args = [] then some ⟨0x04, 0⟩ else none) ∧
    assemble .rdst args = (if args = [] then some ⟨0x07, 0⟩ else none)) ∧
  (∀ args : List Nat, (assemble .seedb args).isSome = true ↔
    args.length = 16 ∧ ∀ b ∈ args, b ≤ 255) ∧
  (∀ args : List Nat, (assemble .seed64 args).isSome = true ↔ ∃ v, args = [v] ∧ v < 2 ^ 64) ∧
  (∀ args : List Nat, ((assemble .wrst args).isSome = true ↔
      args.length = 4 ∧ ∀ w ∈ args, w < 2 ^ 32) ∧
    ((assemble .eqst args).isSome = true ↔ args.length = 4 ∧ ∀ w ∈ args, w < 2 ^ 32)) ∧
  (∀ (args : List Nat) (c : Command) (k : Nat), assemble .seedb args = some c → k < 16 →
    c.op = 0x05 ∧ args[k]? = some (byteLane c.data k).toNat) ∧
  (∀ (v : Nat) (c : Command), assemble .seed64 [v] = some c →
    c.op = 0x06 ∧ (c.data.extractLsb' 0 64).toNat = v ∧ c.data.extractLsb' 64 64 = 0) ∧
  (∀ (args : List Nat) (c : Command) (k : Nat), assemble .wrst args = some c → k < 4 →
    c.op = 0x08 ∧ args[k]? = some (wordLane c.data k).toNat) ∧
  (∀ (args : List Nat) (c : Command) (k : Nat), assemble .eqst args = some c → k < 4 →
    c.op = 0x09 ∧ args[k]? = some (wordLane c.data k).toNat) ∧
  parseMnemonic ['N', 'E', 'X', 'T', 'P'] = some .nextp ∧
  parseMnemonic ['N', 'E', 'X', 'T', 'S', 'S'] = some .nextss ∧
  parseMnemonic ['J', 'U', 'M', 'P'] = some .jump ∧
  parseMnemonic ['L', 'J', 'U', 'M', 'P'] = some .ljump ∧
  parseMnemonic ['S', 'E', 'E', 'D', 'B'] = some .seedb ∧
  parseMnemonic ['S', 'E', 'E', 'D', '6', '4'] = some .seed64 ∧
  parseMnemonic ['R', 'D', 'S', 'T'] = some .rdst ∧
  parseMnemonic ['W', 'R', 'S', 'T'] = some .wrst ∧
  parseMnemonic ['E', 'Q', 'S', 'T'] = some .eqst

/-- R126, its part about LJUMP: clones long-jumped i times give starting points each followed by its
own chain of clones jumped j times, and any two different (i, j) have non-overlapping subsequences of
2^64 states. R126's "2^64 `jump` chain" is read as a chain of jumps of 2^64 steps each, of which there
are 2^32 before the next starting point (LJUMP is 2^32 JUMPs, R124); the very last subsequence is left
out, because it meets the first one's. -/
def Obligations.LongJumpedStreamsDoNotOverlap : Prop :=
  ∀ (w : Words) (i j k l a b : Nat), w ≠ Words.zero → (i, j) ≠ (k, l) →
    i < 2 ^ 32 → j < 2 ^ 32 → k < 2 ^ 32 → l < 2 ^ 32 →
    (i < 2 ^ 32 - 1 ∨ j < 2 ^ 32 - 1) → (k < 2 ^ 32 - 1 ∨ l < 2 ^ 32 - 1) →
    a < 2 ^ 64 → b < 2 ^ 64 →
    transitionN a ((jumpPoly jumpConst)^[j] ((jumpPoly ljumpConst)^[i] w)) ≠
      transitionN b ((jumpPoly jumpConst)^[l] ((jumpPoly ljumpConst)^[k] w))
end

