-- ==== Sys2Proof/Laws/Decode.lean ====
section
/-!
SUPPORT. The decoder opened at a known opcode byte: what a proof about one row of the opcode map
rewrites with.
-/

namespace Sys2Proof

/-- With RSV = 0000 and OP known, decoding is the row of the opcode map (R61, R66). -/
theorem decode_of_op {op : Byte} {k : Nat} (rsv : op.extractLsb' 4 4 = 0)
    (hk : (op.extractLsb' 0 4).toNat = k) (d : Data) : decode ⟨op, d⟩ = decodeOp k d := by
  simp only [decode, rsv, if_true, hk]

/-- With RSV not 0000, the command is not legal (R68). -/
theorem decode_of_rsv {op : Byte} (rsv : op.extractLsb' 4 4 ≠ 0) (d : Data) :
    decode ⟨op, d⟩ = .error .reservedRsv := by
  simp only [decode, rsv, if_false]

theorem decodeNone_zero (i : Instr) : decodeNone i 0 = .ok i := if_pos rfl

theorem decodeNone_nonzero (i : Instr) {d : Data} (h : d ≠ 0) :
    decodeNone i d = .error .mustBeZero := if_neg h

theorem decodeQuad_low (f : Quad → Instr) {d : Data} (h : d.extractLsb' 64 64 = 0) :
    decodeQuad f d = .ok (f (d.extractLsb' 0 64)) := if_pos h

theorem decodeQuad_high (f : Quad → Instr) {d : Data} (h : d.extractLsb' 64 64 ≠ 0) :
    decodeQuad f d = .error .mustBeZero := if_neg h

end Sys2Proof
end

