-- ==== Sys2Proof/Laws/State.lean ====
section
/-!
SUPPORT. The fields of State after each named operation, so that no proof unfolds a record update.
-/

namespace Sys2Proof.Machine

@[simp] theorem State.respond_gen (s : State) (st : Status) (d : Data) :
    (s.respond st d).gen = s.gen := rfl

@[simp] theorem State.respond_phase (s : State) (st : Status) (d : Data) :
    (s.respond st d).phase = .idle := rfl

@[simp] theorem State.respond_rsp (s : State) (st : Status) (d : Data) :
    (s.respond st d).rsp = some ⟨st, d⟩ := rfl

@[simp] theorem State.respond_inputs (s : State) (st : Status) (d : Data) :
    (s.respond st d).inputs = s.inputs := rfl

@[simp] theorem State.raiseIllegal_gen (s : State) : (s.raiseIllegal).gen = s.gen := rfl

@[simp] theorem State.raiseIllegal_phase (s : State) : (s.raiseIllegal).phase = .idle := rfl

@[simp] theorem State.raiseIllegal_rsp (s : State) :
    (s.raiseIllegal).rsp = some ⟨.illegal, 0⟩ := rfl

@[simp] theorem State.raiseIllegal_inputs (s : State) : (s.raiseIllegal).inputs = s.inputs := rfl

@[simp] theorem State.raiseUnseeded_gen (s : State) : (s.raiseUnseeded).gen = s.gen := rfl

@[simp] theorem State.raiseUnseeded_phase (s : State) : (s.raiseUnseeded).phase = .idle := rfl

@[simp] theorem State.raiseUnseeded_rsp (s : State) :
    (s.raiseUnseeded).rsp = some ⟨.unseeded, 0⟩ := rfl

@[simp] theorem State.raiseUnseeded_inputs (s : State) : (s.raiseUnseeded).inputs = s.inputs := rfl

@[simp] theorem State.setWords_gen (s : State) (w : Words) : (s.setWords w).gen = .seeded w := rfl

@[simp] theorem State.setWords_phase (s : State) (w : Words) : (s.setWords w).phase = s.phase := rfl

@[simp] theorem State.setWords_rsp (s : State) (w : Words) : (s.setWords w).rsp = s.rsp := rfl

@[simp] theorem State.setWords_inputs (s : State) (w : Words) :
    (s.setWords w).inputs = s.inputs := rfl

@[simp] theorem State.resetEdge_gen (s : State) : (s.resetEdge).gen = .unseeded := rfl

@[simp] theorem State.resetEdge_phase (s : State) : (s.resetEdge).phase = .inReset := rfl

@[simp] theorem State.resetEdge_rsp (s : State) : (s.resetEdge).rsp = none := rfl

@[simp] theorem State.resetEdge_inputs (s : State) : (s.resetEdge).inputs = s.inputs := rfl

@[simp] theorem State.accept_gen (s : State) (c : Command) (n : Nat) :
    (s.accept c n).gen = s.gen := rfl

@[simp] theorem State.accept_phase (s : State) (c : Command) (n : Nat) :
    (s.accept c n).phase = .busy c n := rfl

@[simp] theorem State.accept_rsp (s : State) (c : Command) (n : Nat) :
    (s.accept c n).rsp = none := rfl

@[simp] theorem State.accept_inputs (s : State) (c : Command) (n : Nat) :
    (s.accept c n).inputs = s.inputs := rfl

@[simp] theorem State.wait_gen (s : State) (c : Command) (n : Nat) : (s.wait c n).gen = s.gen := rfl

@[simp] theorem State.wait_phase (s : State) (c : Command) (n : Nat) :
    (s.wait c n).phase = .busy c n := rfl

@[simp] theorem State.wait_rsp (s : State) (c : Command) (n : Nat) : (s.wait c n).rsp = s.rsp := rfl

@[simp] theorem State.wait_inputs (s : State) (c : Command) (n : Nat) :
    (s.wait c n).inputs = s.inputs := rfl

@[simp] theorem State.idleEdge_gen (s : State) : (s.idleEdge).gen = s.gen := rfl

@[simp] theorem State.idleEdge_phase (s : State) : (s.idleEdge).phase = .idle := rfl

@[simp] theorem State.idleEdge_rsp (s : State) : (s.idleEdge).rsp = s.rsp := rfl

@[simp] theorem State.idleEdge_inputs (s : State) : (s.idleEdge).inputs = s.inputs := rfl

@[simp] theorem State.dropPins_gen (s : State) : (s.dropPins).gen = s.gen := rfl

@[simp] theorem State.dropPins_phase (s : State) : (s.dropPins).phase = s.phase := rfl

@[simp] theorem State.dropPins_rsp (s : State) : (s.dropPins).rsp = s.rsp := rfl

@[simp] theorem State.dropPins_inputs (s : State) : (s.dropPins).inputs = s.inputs.tail := rfl

@[simp] theorem State.placeCommand_gen (s : State) (c : Command) :
    (s.placeCommand c).gen = s.gen := rfl

@[simp] theorem State.placeCommand_phase (s : State) (c : Command) :
    (s.placeCommand c).phase = .busy c 0 := rfl

@[simp] theorem State.placeCommand_rsp (s : State) (c : Command) :
    (s.placeCommand c).rsp = none := rfl

@[simp] theorem State.placeCommand_inputs (s : State) (c : Command) :
    (s.placeCommand c).inputs = Pins.quiet :: s.inputs := rfl

@[simp] theorem State.respond_cmdReady (s : State) (st : Status) (d : Data) :
    (s.respond st d).cmdReady = true := rfl

@[simp] theorem State.respond_rspValid (s : State) (st : Status) (d : Data) :
    (s.respond st d).rspValid = true := rfl

@[simp] theorem State.respond_rspStatus (s : State) (st : Status) (d : Data) :
    (s.respond st d).rspStatus = some st.code := rfl

@[simp] theorem State.respond_rspData (s : State) (st : Status) (d : Data) :
    (s.respond st d).rspData = some d := rfl

@[simp] theorem State.respond_seeded (s : State) (st : Status) (d : Data) :
    (s.respond st d).seeded = s.seeded := rfl

@[simp] theorem State.setWords_seeded (s : State) (w : Words) :
    (s.setWords w).seeded = true := rfl

@[simp] theorem State.resetEdge_seeded (s : State) : s.resetEdge.seeded = false := rfl

@[simp] theorem State.resetEdge_cmdReady (s : State) :
    s.resetEdge.cmdReady = !s.pins.rst := rfl

@[simp] theorem State.resetEdge_rspValid (s : State) : s.resetEdge.rspValid = false := rfl

@[simp] theorem State.accept_cmdReady (s : State) (c : Command) (n : Nat) :
    (s.accept c n).cmdReady = false := rfl

@[simp] theorem State.accept_rspValid (s : State) (c : Command) (n : Nat) :
    (s.accept c n).rspValid = false := rfl

@[simp] theorem State.idleEdge_cmdReady (s : State) : s.idleEdge.cmdReady = true := rfl

@[simp] theorem State.respond_pins (s : State) (st : Status) (d : Data) :
    (s.respond st d).pins = s.pins := rfl

@[simp] theorem State.setWords_pins (s : State) (w : Words) :
    (s.setWords w).pins = s.pins := rfl

@[simp] theorem State.resetEdge_pins (s : State) :
    (s.resetEdge).pins = s.pins := rfl

@[simp] theorem State.accept_pins (s : State) (c : Command) (n : Nat) :
    (s.accept c n).pins = s.pins := rfl

@[simp] theorem State.wait_pins (s : State) (c : Command) (n : Nat) :
    (s.wait c n).pins = s.pins := rfl

@[simp] theorem State.idleEdge_pins (s : State) :
    (s.idleEdge).pins = s.pins := rfl

/-- Setting S to the words it holds changes nothing. -/
theorem State.setWords_self {s : State} {w : Words} (h : s.gen = .seeded w) : s.setWords w = s := by
  cases s; cases h; rfl

theorem State.seeded_iff (s : State) : s.seeded = true ↔ ∃ w, s.gen = .seeded w := by
  unfold State.seeded
  cases s.gen <;> simp

theorem State.not_seeded_iff (s : State) : s.seeded = false ↔ s.gen = .unseeded := by
  unfold State.seeded
  cases s.gen <;> simp

theorem State.cmdReady_iff (s : State) :
    s.cmdReady = true ↔ s.phase = .idle ∨ (s.phase = .inReset ∧ s.pins.rst = false) := by
  unfold State.cmdReady
  cases s.phase <;> simp

end Sys2Proof.Machine
end

