-- ==== Sys2Proof/Laws/Ops.lean ====
section
/-!
SUPPORT. One lemma for each shared operation that says all it can do, and the one case analysis of
`exec`, of `complete` and of `step` that later proofs cite instead of unfolding them.
-/

namespace Sys2Proof.Machine

theorem withWords_unseeded {s : State} (h : s.gen = .unseeded)
    (k : Words → Host.Outcome State Fault Refusal) : withWords s k = .next s.raiseUnseeded := by
  simp only [withWords, h]

theorem withWords_seeded {s : State} {w : Words} (h : s.gen = .seeded w)
    (k : Words → Host.Outcome State Fault Refusal) : withWords s k = k w := by
  simp only [withWords, h]

theorem finish_eq (s : State) (w : Words) (d : Data) :
    finish s w d = .next ((s.setWords w).respond .ok d) := rfl

theorem construct_eq (s : State) (w : Words) :
    construct s w = .next ((s.setWords w).respond .ok 0) := rfl

theorem produceNext_seeded (f : Words → Word) {s : State} {w : Words} (h : s.gen = .seeded w) :
    produceNext f s = .next ((s.setWords (transition w)).respond .ok (zextWord (f w))) := by
  rw [produceNext, withWords_seeded h, finish_eq]

theorem jumpBy_seeded (c : Words) {s : State} {w : Words} (h : s.gen = .seeded w) :
    jumpBy c s = .next ((s.setWords (jumpPoly c w)).respond .ok 0) := by
  rw [jumpBy, withWords_seeded h, finish_eq]

/-- The state words after an instruction that does not answer UNSEEDED, from the words before it
(which a construction ignores). -/
def wordsAfter : Instr → Words → Words
  | .nextp, w => transition w
  | .nextss, w => transition w
  | .jump, w => jumpPoly jumpConst w
  | .ljump, w => jumpPoly ljumpConst w
  | .seedb b, _ => seedWords (substituteZero b)
  | .seed64 v, _ => substituteZeroWords (splitMixWords v)
  | .rdst, w => w
  | .wrst v, _ => v
  | .eqst _, w => w

/-- The response data of an instruction that does not answer UNSEEDED (R70). -/
def dataAfter : Instr → Words → Data
  | .nextp, w => zextWord (extractPlus w)
  | .nextss, w => zextWord (extractStarStar w)
  | .jump, _ => 0
  | .ljump, _ => 0
  | .seedb _, _ => 0
  | .seed64 _, _ => 0
  | .rdst, w => dataOf w
  | .wrst _, _ => 0
  | .eqst v, w => zextBit (w.w0 == v.w0 && w.w1 == v.w1 && w.w2 == v.w2 && w.w3 == v.w3)

/-- With SEEDED = 0, an instruction that needs the state answers UNSEEDED. -/
theorem exec_unseeded {i : Instr} {s : State} (hi : needsState i = true) (h : s.gen = .unseeded) :
    exec i s = .next s.raiseUnseeded := by
  cases i <;> first | exact withWords_unseeded h _ | exact absurd hi (by decide) | cases hi

/-- With SEEDED = 1, every instruction writes all of S and answers OK. -/
theorem exec_seeded {i : Instr} {s : State} {w : Words} (h : s.gen = .seeded w) :
    exec i s = .next ((s.setWords (wordsAfter i w)).respond .ok (dataAfter i w)) := by
  cases i with
  | nextp => exact produceNext_seeded _ h
  | nextss => exact produceNext_seeded _ h
  | jump => exact jumpBy_seeded _ h
  | ljump => exact jumpBy_seeded _ h
  | seedb b => exact construct_eq _ _
  | seed64 v => exact construct_eq _ _
  | rdst =>
    rw [wordsAfter, State.setWords_self h]
    exact withWords_seeded h _
  | wrst v => exact construct_eq _ _
  | eqst v =>
    rw [wordsAfter, State.setWords_self h]
    exact withWords_seeded h _

/-- A construction does the same whatever SEEDED holds. -/
theorem exec_construct {i : Instr} (hi : needsState i = false) (s : State) :
    exec i s = .next ((s.setWords (wordsAfter i Words.zero)).respond .ok 0) := by
  cases i <;> first | rfl | cases hi

/-- Everything an instruction can do. -/
theorem exec_cases (i : Instr) (s : State) :
    (s.gen = .unseeded ∧ needsState i = true ∧ exec i s = .next s.raiseUnseeded) ∨
      (s.gen = .unseeded ∧ needsState i = false ∧
        exec i s = .next ((s.setWords (wordsAfter i Words.zero)).respond .ok 0)) ∨
      ∃ w, s.gen = .seeded w ∧
        exec i s = .next ((s.setWords (wordsAfter i w)).respond .ok (dataAfter i w)) := by
  cases h : s.gen with
  | unseeded =>
    cases hi : needsState i with
    | true => exact .inl ⟨rfl, rfl, exec_unseeded hi h⟩
    | false => exact .inr (.inl ⟨rfl, rfl, exec_construct hi s⟩)
  | seeded w => exact .inr (.inr ⟨w, rfl, exec_seeded h⟩)

theorem complete_ok {c : Command} {i : Instr} (h : decode c = .ok i) (s : State) :
    complete c s = exec i s := by
  simp only [complete, h]

theorem complete_error {c : Command} {e : Illegal} (h : decode c = .error e) (s : State) :
    complete c s = .next s.raiseIllegal := by
  simp only [complete, h]

/-- Everything the completion of a command can do: it answers, and only an instruction that is legal
and not UNSEEDED writes S. -/
theorem complete_cases (c : Command) (s : State) :
    complete c s = .next s.raiseIllegal ∨
      (s.gen = .unseeded ∧ complete c s = .next s.raiseUnseeded) ∨
      ∃ i w d, decode c = .ok i ∧ complete c s = .next ((s.setWords w).respond .ok d) := by
  cases h : decode c with
  | error e => exact .inl (complete_error h s)
  | ok i =>
    rcases exec_cases i s with ⟨hg, _, he⟩ | ⟨_, _, he⟩ | ⟨w, _, he⟩
    · exact .inr (.inl ⟨hg, (complete_ok h s).trans he⟩)
    · exact .inr (.inr ⟨i, _, _, rfl, (complete_ok h s).trans he⟩)
    · exact .inr (.inr ⟨i, _, _, rfl, (complete_ok h s).trans he⟩)

/-- Everything a step can do. -/
theorem step_cases (s : State) :
    (s.pins.rst = true ∧ step s = .next s.dropPins.resetEdge) ∨
      (s.pins.rst = false ∧
        ((∃ c, s.phase = .busy c 0 ∧ step s = complete c s.dropPins) ∨
          (∃ c n, s.phase = .busy c (n + 1) ∧ step s = .next (s.dropPins.wait c n)) ∨
          ((s.phase = .idle ∨ s.phase = .inReset) ∧
            ((s.pins.cmdValid = true ∧
                step s =
                  .next (s.dropPins.accept s.pins.command (latency s.pins.command - 1))) ∨
              (s.pins.cmdValid = false ∧ step s = .next s.dropPins.idleEdge))))) := by
  cases hr : s.pins.rst with
  | true => exact .inl ⟨rfl, by simp only [step, edge, hr, if_true]⟩
  | false =>
    refine .inr ⟨rfl, ?_⟩
    cases hp : s.phase with
    | busy c n =>
      cases n with
      | zero => exact .inl ⟨c, rfl, by simp [step, edge, hr, hp]⟩
      | succ n => exact .inr (.inl ⟨c, n, rfl, by simp [step, edge, hr, hp]⟩)
    | idle =>
      refine .inr (.inr ⟨.inl rfl, ?_⟩)
      cases hv : s.pins.cmdValid with
      | true => exact .inl ⟨rfl, by simp [step, edge, hr, hp, hv]⟩
      | false => exact .inr ⟨rfl, by simp [step, edge, hr, hp, hv]⟩
    | inReset =>
      refine .inr (.inr ⟨.inr rfl, ?_⟩)
      cases hv : s.pins.cmdValid with
      | true => exact .inl ⟨rfl, by simp [step, edge, hr, hp, hv]⟩
      | false => exact .inr ⟨rfl, by simp [step, edge, hr, hp, hv]⟩

end Sys2Proof.Machine
end

