-- ==== Sys2Proof/Laws/Run.lean ====
section
/-!
SUPPORT. Runs of the machine, one edge at a time, and what a completion and a latency can be: the
lemmas with which a claim over several edges is cut into claims over one.
-/

namespace Sys2Proof.Machine

/-- A run whose first step goes on to `t` continues from `t`. -/
theorem run_step {s t : State} (h : step s = .next t) (k : Nat) :
    Host.Core.run core (k + 1) s = Host.Core.run core k t := by
  have h' : core.step s = .next t := h
  simp only [Host.Core.run, h']

/-- A run of one edge is that edge. -/
theorem run_one {s t : State} (h : step s = .next t) : Host.Core.run core 1 s = .next t := by
  rw [run_step h]
  rfl

/-- The completion of a command reads only the generator and the host's coming inputs. -/
theorem complete_congr (c : Command) {s t : State} (hg : s.gen = t.gen)
    (hi : s.inputs = t.inputs) : complete c s = complete c t := by
  obtain ⟨g, p, r, i⟩ := s
  obtain ⟨g', p', r', i'⟩ := t
  cases hg
  cases hi
  unfold complete
  cases decode c with
  | error e => rfl
  | ok i => cases i <;> cases g <;> rfl

/-- Every completion answers, leaves the block ready, and takes no input pins. -/
theorem complete_answers (c : Command) (s : State) :
    ∃ t r, complete c s = .next t ∧ t.rsp = some r ∧ t.phase = .idle ∧ t.inputs = s.inputs := by
  rcases complete_cases c s with e | ⟨_, e⟩ | ⟨i, w, d, _, e⟩ <;>
    exact ⟨_, _, e, rfl, rfl, rfl⟩

end Sys2Proof.Machine
end

