-- ==== Sys2Proof/Laws/HostSide.lean ====
section
/-!
SUPPORT. What the host-side operations can do: one command on one block, one command among several
blocks, and the bytes of a list of words.
-/

namespace Sys2Proof.Machine

/-- A command always gets its response, and leaves the host's inputs alone. -/
theorem issue_answers (c : Command) (s : State) :
    ∃ r t, issue c s = some (r, t) ∧ t.inputs = s.inputs := by
  obtain ⟨t, r, h, hr, _, hi⟩ := complete_answers c (s.accept c 0)
  exact ⟨r, t, by simp [issue, transact, reply, h, hr], hi⟩

/-- On a block with SEEDED = 1, a command that decodes to `i` answers OK with `i`'s effect. -/
theorem issue_seeded {c : Command} {i : Instr} {s : State} {w : Words} (hd : decode c = .ok i)
    (h : s.gen = .seeded w) :
    issue c s = some (⟨.ok, dataAfter i w⟩,
      (s.setWords (wordsAfter i w)).respond .ok (dataAfter i w)) := by
  have done : transact c s =
      .next ((s.setWords (wordsAfter i w)).respond .ok (dataAfter i w)) := by
    refine (complete_congr c (t := s) rfl rfl).trans ?_
    rw [complete_ok hd, exec_seeded h]
  simp [issue, reply, done]

/-- Replacing the state of one block changes what that name finds, and nothing else. -/
theorem Blocks.find_put (n m : BlockName) (t : State) (bs : Blocks) :
    Blocks.find m (Blocks.put n t bs) =
      if m = n then (Blocks.find n bs).map fun _ => t else Blocks.find m bs := by
  induction bs with
  | nil => simp [Blocks.put, Blocks.find]
  | cons b bs ih =>
    obtain ⟨k, s⟩ := b
    simp only [Blocks.put, Blocks.find]
    by_cases hk : k = n
    · subst hk
      by_cases hm : m = k
      · subst hm
        simp [Blocks.find]
      · have hkm : ¬k = m := fun e => hm e.symm
        simp [Blocks.find, hm, hkm]
    · by_cases hm : m = n
      · subst hm
        simp [Blocks.find, hk, ih]
      · simp only [hk, hm, if_false, Blocks.find] at ih ⊢
        rw [ih]

theorem wordBytes_getElem? (w : Word) (m : Nat) (hm : m < 4) :
    (wordBytes w)[m]? = some (w.extractLsb' (8 * m) 8) := by
  match m with
  | 0 | 1 | 2 | 3 => rfl
  | m + 4 => omega

/-- Byte 4j + m of the words' bytes is byte m of word j (R55). -/
theorem flatMap_wordBytes_getElem? (ws : List Word) (j m : Nat) (hm : m < 4) :
    (ws.flatMap wordBytes)[4 * j + m]? = ws[j]?.map fun w => w.extractLsb' (8 * m) 8 := by
  induction ws generalizing j with
  | nil => simp
  | cons w ws ih =>
    rw [List.flatMap_cons]
    cases j with
    | zero =>
      rw [List.getElem?_append_left (by simp [wordBytes]; omega)]
      simp [wordBytes_getElem? w m hm]
    | succ j =>
      rw [List.getElem?_append_right (by simp [wordBytes]; omega)]
      have shift : 4 * (j + 1) + m - (wordBytes w).length = 4 * j + m := by
        simp [wordBytes]; omega
      rw [shift, ih]
      simp

theorem flatMap_wordBytes_length (ws : List Word) :
    (ws.flatMap wordBytes).length = 4 * ws.length := by
  induction ws with
  | nil => rfl
  | cons w ws ih => simp [ih, wordBytes]; omega

end Sys2Proof.Machine
end

