-- ==== Sys2Proof/Laws/Words.lean ====
section
/-!
SUPPORT. The four-word tuples under XOR: a commutative group in which every element is its own
inverse, the vector space over GF(2) of R18.
-/

namespace Sys2Proof

theorem Words.ext_words {a b : Words} (h0 : a.w0 = b.w0) (h1 : a.w1 = b.w1) (h2 : a.w2 = b.w2)
    (h3 : a.w3 = b.w3) : a = b := by
  cases a; cases b; simp_all

@[simp] theorem Words.xor_zero (a : Words) : a.xor Words.zero = a := by
  simp [Words.xor, Words.zero]

@[simp] theorem Words.zero_xor (a : Words) : Words.zero.xor a = a := by
  simp [Words.xor, Words.zero]

@[simp] theorem Words.xor_self (a : Words) : a.xor a = Words.zero := by
  simp [Words.xor, Words.zero]

theorem Words.xor_comm (a b : Words) : a.xor b = b.xor a := by
  simp [Words.xor, BitVec.xor_comm]

theorem Words.xor_assoc (a b c : Words) : (a.xor b).xor c = a.xor (b.xor c) := by
  simp [Words.xor, BitVec.xor_assoc]

theorem Words.xor_left_comm (a b c : Words) : a.xor (b.xor c) = b.xor (a.xor c) := by
  rw [← Words.xor_assoc, Words.xor_comm a b, Words.xor_assoc]

@[simp] theorem Words.xor_xor_self (a b : Words) : a.xor (a.xor b) = b := by
  rw [← Words.xor_assoc, Words.xor_self, Words.zero_xor]

theorem Words.xor_eq_zero {a b : Words} : a.xor b = Words.zero ↔ a = b := by
  constructor
  · intro h
    have h' := congrArg (Words.xor a) h
    simpa using h'.symm
  · rintro rfl
    exact Words.xor_self a

/-- A tuple taken or not, by one bit: the summand c_k * T^k(S) of R121's closed form. -/
def Words.pick (b : Bool) (a : Words) : Words := if b then a else Words.zero

@[simp] theorem Words.pick_true (a : Words) : Words.pick true a = a := rfl

@[simp] theorem Words.pick_false (a : Words) : Words.pick false a = Words.zero := rfl

theorem Words.pick_xor (b c : Bool) (a : Words) :
    Words.pick (b ^^ c) a = (Words.pick b a).xor (Words.pick c a) := by
  cases b <;> cases c <;> simp

theorem Words.pick_add (b : Bool) (x y : Words) :
    Words.pick b (x.xor y) = (Words.pick b x).xor (Words.pick b y) := by
  cases b <;> simp

end Sys2Proof
end

