-- ==== Sys2Proof/Laws/Transition.lean ====
section
/-!
SUPPORT. What the transition is: its closed form over the old words (R80), its word-wise
GF(2)-linearity (R81), and its iterates.
-/

namespace Sys2Proof.Machine

theorem rotl32_xor (a b : Word) (k : Nat) : rotl32 (a ^^^ b) k = rotl32 a k ^^^ rotl32 b k := by
  unfold rotl32
  ext i hi
  simp only [BitVec.getElem_or, BitVec.getElem_xor, BitVec.getElem_shiftLeft,
    BitVec.getElem_ushiftRight, BitVec.getLsbD_xor]
  by_cases h : i < k
  · simp [h]
  · have far : ∀ x : Word, x.getLsbD (32 - k + i) = false := fun x =>
      BitVec.getLsbD_of_ge x _ (by omega)
    simp [h, far]

theorem shiftLeft_xor (a b : Word) (k : Nat) : (a ^^^ b) <<< k = (a <<< k) ^^^ (b <<< k) := by
  ext i hi
  simp only [BitVec.getElem_xor, BitVec.getElem_shiftLeft]
  by_cases h : i < k <;> simp [h]

/-- The closed form of R80. -/
theorem transition_closed (a b c d : Word) :
    transition ⟨a, b, c, d⟩ =
      ⟨a ^^^ b ^^^ d, a ^^^ b ^^^ c, a ^^^ c ^^^ (b <<< 9), rotl32 (b ^^^ d) 11⟩ := by
  simp only [transition, Words.mk.injEq]
  refine ⟨?_, ?_, ?_, ?_⟩
  · rw [BitVec.xor_comm d b, BitVec.xor_assoc]
  · rw [BitVec.xor_comm c a, ← BitVec.xor_assoc, BitVec.xor_comm b a]
  · rw [BitVec.xor_comm c a]
  · rw [BitVec.xor_comm d b]

theorem transition_xor (x y : Words) :
    transition (x.xor y) = (transition x).xor (transition y) := by
  obtain ⟨a, b, c, d⟩ := x
  obtain ⟨e, f, g, h⟩ := y
  simp only [Words.xor, transition_closed, Words.mk.injEq]
  refine ⟨by ac_rfl, by ac_rfl, ?_, ?_⟩
  · rw [shiftLeft_xor]; ac_rfl
  · rw [← rotl32_xor]; congr 1; ac_rfl

@[simp] theorem transition_zero : transition Words.zero = Words.zero := by decide

theorem transition_pick (b : Bool) (x : Words) :
    transition (Words.pick b x) = Words.pick b (transition x) := by
  cases b <;> simp

@[simp] theorem transitionN_zero (s : Words) : transitionN 0 s = s := rfl

theorem transitionN_succ (n : Nat) (s : Words) :
    transitionN (n + 1) s = transitionN n (transition s) := rfl

theorem transitionN_succ' (n : Nat) (s : Words) :
    transitionN (n + 1) s = transition (transitionN n s) :=
  Function.iterate_succ_apply' transition n s

theorem transitionN_add (m n : Nat) (s : Words) :
    transitionN (m + n) s = transitionN m (transitionN n s) :=
  Function.iterate_add_apply transition m n s

theorem transitionN_xor (n : Nat) (x y : Words) :
    transitionN n (x.xor y) = (transitionN n x).xor (transitionN n y) := by
  induction n with
  | zero => rfl
  | succ n ih => simp only [transitionN_succ', ih, transition_xor]

@[simp] theorem transitionN_of_zero (n : Nat) : transitionN n Words.zero = Words.zero := by
  simpa only [Words.xor_self] using transitionN_xor n Words.zero Words.zero

end Sys2Proof.Machine
end

