-- ==== Sys2Proof/Laws/Jump.lean ====
section
/-!
SUPPORT. The jump engine as the evaluation of a GF(2) polynomial at T (R121): the loop adds up
T^k(S) over the set bits, the sum is linear in the polynomial and in the state, and multiplying the
polynomial by x applies T once more.
-/

namespace Sys2Proof.Machine

/-- The sum of T^k(S) over the k < n with `f k`: R121's p_C(T) applied to S, for the polynomial
whose coefficient of x^k is `f k`. -/
def polyAt (f : Nat → Bool) : Nat → Words → Words
  | 0, _ => Words.zero
  | n + 1, s => (polyAt f n s).xor (Words.pick (f n) (transitionN n s))

theorem polyAt_succ (f : Nat → Bool) (n : Nat) (s : Words) :
    polyAt f (n + 1) s = (polyAt f n s).xor (Words.pick (f n) (transitionN n s)) := rfl

@[simp] theorem polyAt_none (n : Nat) (s : Words) : polyAt (fun _ => false) n s = Words.zero := by
  induction n with
  | zero => rfl
  | succ n ih => simp [polyAt, ih]

theorem polyAt_congr {f g : Nat → Bool} {n : Nat} (h : ∀ k < n, f k = g k) (s : Words) :
    polyAt f n s = polyAt g n s := by
  induction n with
  | zero => rfl
  | succ n ih =>
    simp only [polyAt, ih fun k hk => h k (by omega), h n (by omega)]

/-- Adding polynomials adds their values. -/
theorem polyAt_add (f g : Nat → Bool) (n : Nat) (s : Words) :
    polyAt (fun k => f k ^^ g k) n s = (polyAt f n s).xor (polyAt g n s) := by
  induction n with
  | zero => simp [polyAt]
  | succ n ih =>
    simp only [polyAt, ih, Words.pick_xor]
    simp only [Words.xor_assoc, Words.xor_left_comm]

/-- The value is linear in the state. -/
theorem polyAt_xor (f : Nat → Bool) (n : Nat) (x y : Words) :
    polyAt f n (x.xor y) = (polyAt f n x).xor (polyAt f n y) := by
  induction n with
  | zero => simp [polyAt]
  | succ n ih =>
    simp only [polyAt, ih, transitionN_xor, Words.pick_add]
    simp only [Words.xor_assoc, Words.xor_left_comm]

/-- The value commutes with the transition. -/
theorem polyAt_transition (f : Nat → Bool) (n : Nat) (s : Words) :
    polyAt f n (transition s) = transition (polyAt f n s) := by
  induction n with
  | zero => exact transition_zero.symm
  | succ n ih =>
    simp only [polyAt, ih, transition_xor, transition_pick, ← transitionN_succ, transitionN_succ']

/-- Splitting off the constant term: f = f(0) + x * (the rest). -/
theorem polyAt_head (f : Nat → Bool) (n : Nat) (s : Words) :
    polyAt f (n + 1) s =
      (Words.pick (f 0) s).xor (transition (polyAt (fun k => f (k + 1)) n s)) := by
  induction n with
  | zero => simp [polyAt]
  | succ n ih =>
    rw [polyAt, ih]
    simp only [polyAt, transition_xor, transition_pick, ← transitionN_succ', Words.xor_assoc]

/-- The engine's loop adds the value of its bits, as a polynomial, to the accumulator. -/
theorem jumpLoop_eq_polyAt (bs : List Bool) (acc s : Words) :
    jumpLoop bs acc s = acc.xor (polyAt (fun k => bs.getD k false) bs.length s) := by
  induction bs generalizing acc s with
  | nil => simp [jumpLoop]
  | cons b bs ih =>
    rw [jumpLoop, ih, List.length_cons, polyAt_head]
    simp only [List.getD_cons_zero, List.getD_cons_succ, ← polyAt_transition, ← Words.xor_assoc]
    cases b <;> simp

/-- Bit k of a constant in the engine's order: c_k (R120). -/
def constBit (c : Words) (k : Nat) : Bool := (constBits c).getD k false

theorem constBits_length (c : Words) : (constBits c).length = 128 := by
  simp [constBits, wordBits]

/-- R121's closed form: `JumpPoly(C, S)` is the XOR of T^k(S) over the k with c_k = 1. -/
theorem jumpPoly_eq_polyAt (c s : Words) : jumpPoly c s = polyAt (constBit c) 128 s := by
  rw [jumpPoly, jumpLoop_eq_polyAt, Words.zero_xor, constBits_length]
  rfl

/-- The loop from a zero accumulator, one bit at a time. -/
theorem jumpLoop_cons (b : Bool) (bs : List Bool) (s : Words) :
    jumpLoop (b :: bs) Words.zero s =
      (Words.pick b s).xor (jumpLoop bs Words.zero (transition s)) := by
  rw [jumpLoop, jumpLoop_eq_polyAt, jumpLoop_eq_polyAt bs Words.zero]
  cases b <;> simp

theorem jumpLoop_xor (bs : List Bool) (x y : Words) :
    jumpLoop bs Words.zero (x.xor y) =
      (jumpLoop bs Words.zero x).xor (jumpLoop bs Words.zero y) := by
  simp only [jumpLoop_eq_polyAt, Words.zero_xor, polyAt_xor]

theorem jumpLoop_transition (bs : List Bool) (s : Words) :
    jumpLoop bs Words.zero (transition s) = transition (jumpLoop bs Words.zero s) := by
  simp only [jumpLoop_eq_polyAt, Words.zero_xor, polyAt_transition]

@[simp] theorem jumpLoop_zero (bs : List Bool) :
    jumpLoop bs Words.zero Words.zero = Words.zero := by
  simpa only [Words.xor_self] using jumpLoop_xor bs Words.zero Words.zero

theorem jumpLoop_pick (bs : List Bool) (b : Bool) (s : Words) :
    jumpLoop bs Words.zero (Words.pick b s) = Words.pick b (jumpLoop bs Words.zero s) := by
  cases b <;> simp

theorem jumpPoly_xor (c x y : Words) :
    jumpPoly c (x.xor y) = (jumpPoly c x).xor (jumpPoly c y) := by
  simp only [jumpPoly_eq_polyAt, polyAt_xor]

theorem jumpPoly_transition (c s : Words) :
    jumpPoly c (transition s) = transition (jumpPoly c s) := by
  simp only [jumpPoly_eq_polyAt, polyAt_transition]

end Sys2Proof.Machine
end

