-- ==== Sys2Proof/Laws/Operands.lean ====
section
/-!
SUPPORT. The lanes of a 128-bit field: reading a lane bit by bit, and packing and unpacking four
words are inverse to each other.
-/

namespace Sys2Proof.Machine

theorem getLsbD_wordLane (d : Data) (i b : Nat) (hb : b < 32) :
    (wordLane d i).getLsbD b = d.getLsbD (32 * i + b) := by
  simp [wordLane, hb]

theorem getLsbD_byteLane (d : Data) (k b : Nat) (hb : b < 8) :
    (byteLane d k).getLsbD b = d.getLsbD (8 * k + b) := by
  simp [byteLane, hb]

@[simp] theorem wordsOf_dataOf (w : Words) : wordsOf (dataOf w) = w := by
  obtain ⟨a, b, c, d⟩ := w
  simp only [wordsOf, Words.mk.injEq]
  refine ⟨?_, ?_, ?_, ?_⟩ <;>
  · refine BitVec.eq_of_getLsbD_eq fun k hk => ?_
    rw [getLsbD_wordLane _ _ _ hk]
    simp only [dataOf, BitVec.getLsbD_append]
    split_ifs <;> first | (exfalso; omega) | (congr 1; omega)

@[simp] theorem dataOf_wordsOf (d : Data) : dataOf (wordsOf d) = d := by
  refine BitVec.eq_of_getLsbD_eq fun k hk => ?_
  simp only [dataOf, wordsOf, BitVec.getLsbD_append]
  split_ifs <;> (rw [getLsbD_wordLane _ _ _ (by omega)]; congr 1; omega)

/-- The little-endian word i of the seed bytes is word lane i (R42, R45). -/
theorem seedWord_eq_wordLane (b : Data) (i : Nat) : seedWord b i = wordLane b i := by
  refine BitVec.eq_of_getLsbD_eq fun k hk => ?_
  rw [getLsbD_wordLane _ _ _ hk]
  simp only [seedWord, BitVec.getLsbD_append]
  split_ifs <;> (rw [getLsbD_byteLane _ _ _ (by omega)]; congr 1; omega)

/-- Sixteen seed bytes and four operand words with the same 128 bits are the same words (R45). -/
theorem seedWords_eq_wordsOf (b : Data) : seedWords b = wordsOf b := by
  simp only [seedWords, wordsOf, seedWord_eq_wordLane]

end Sys2Proof.Machine
end

