-- ==== Sys2Proof/Laws/PerInstr.lean ====
section
/-!
SUPPORT. Statements made instruction by instruction. Family Encoding: the encoder's command of an
instruction is legal in the sense of R67, and the instruction is well formed.
-/

namespace Sys2Proof.Laws

/-- The command `encode i` passes R67's check, and `i` is well formed. -/
def Encoding.Statement (i : Instr) : Prop := (encode i).legal = true ∧ i.wellFormed = true

theorem Encoding.nextp : Encoding.Statement .nextp := ⟨by decide, rfl⟩

theorem Encoding.nextss : Encoding.Statement .nextss := ⟨by decide, rfl⟩

theorem Encoding.jump : Encoding.Statement .jump := ⟨by decide, rfl⟩

theorem Encoding.ljump : Encoding.Statement .ljump := ⟨by decide, rfl⟩

theorem Encoding.rdst : Encoding.Statement .rdst := ⟨by decide, rfl⟩

/-- A command whose opcode byte is that of format B or W is legal whatever its operand. -/
theorem legal_of_free {op : Byte} (h4 : op.extractLsb' 4 4 = 0) {f : Format}
    (hf : opFormat (op.extractLsb' 0 4) = some f) (hm : f.mustBeZero = 0) (d : Data) :
    (⟨op, d⟩ : Command).legal = true := by
  simp [Command.legal, h4, hf, hm]

theorem Encoding.seedb (b : Data) : Encoding.Statement (.seedb b) :=
  ⟨legal_of_free (f := .bytes) (by decide) (by decide) rfl b, rfl⟩

theorem Encoding.wrst (w : Words) : Encoding.Statement (.wrst w) :=
  ⟨legal_of_free (f := .words) (by decide) (by decide) rfl _, rfl⟩

theorem Encoding.eqst (w : Words) : Encoding.Statement (.eqst w) :=
  ⟨legal_of_free (f := .words) (by decide) (by decide) rfl _, rfl⟩

/-- Format Q's must-be-zero mask has no bit in the operand's 64 bits. -/
theorem quad_mask_and (v : Quad) : Format.quad.mustBeZero &&& v.setWidth 128 = 0 := by
  have low : ∀ k < 64, Format.quad.mustBeZero.getLsbD k = false := by decide
  refine BitVec.eq_of_getLsbD_eq fun k hk => ?_
  rw [BitVec.getLsbD_and]
  by_cases h : k < 64
  · simp [low k h]
  · have hv : v.getLsbD k = false := BitVec.getLsbD_of_ge v k (by omega)
    simp [hv]

theorem Encoding.seed64 (v : Quad) : Encoding.Statement (.seed64 v) := by
  refine ⟨?_, rfl⟩
  have hf : opFormat ((0x06 : Byte).extractLsb' 0 4) = some .quad := by decide
  have h4 : (0x06 : Byte).extractLsb' 4 4 = 0 := by decide
  simp only [Command.legal, encode, hf, h4, quad_mask_and]
  decide

end Sys2Proof.Laws
end

