-- ==== Sys2Proof/Laws/Polynomial.lean ====
section
/-!
SUPPORT. GF(2) polynomials of degree below 128, as 128-bit numbers, evaluated at T (R18, R121). The
transition satisfies its characteristic polynomial, so that multiplication by x and squaring modulo
that polynomial are T and composition: what relates a jump constant to a power of T.
-/

namespace Sys2Proof.Machine

/-- The polynomial whose coefficient of x^k is bit k of `v`, evaluated at T and applied to S. -/
def polyVal (v : Data) (s : Words) : Words := polyAt (fun k => v.getLsbD k) 128 s

theorem polyVal_xor (u v : Data) (s : Words) :
    polyVal (u ^^^ v) s = (polyVal u s).xor (polyVal v s) := by
  simp only [polyVal, BitVec.getLsbD_xor, polyAt_add]

theorem polyVal_zero (s : Words) : polyVal 0 s = Words.zero :=
  (polyAt_congr (g := fun _ => false) (by simp) s).trans (polyAt_none 128 s)

theorem polyVal_one (s : Words) : polyVal 1 s = s := by
  rw [polyVal, polyAt_head, polyAt_congr (g := fun _ => false) (by simp), polyAt_none]
  simp

theorem polyVal_add (v : Data) (x y : Words) :
    polyVal v (x.xor y) = (polyVal v x).xor (polyVal v y) :=
  polyAt_xor _ _ _ _

@[simp] theorem polyVal_of_zero (v : Data) : polyVal v Words.zero = Words.zero := by
  simpa only [Words.xor_self] using polyVal_add v Words.zero Words.zero

theorem polyVal_transition (v : Data) (s : Words) :
    polyVal v (transition s) = transition (polyVal v s) :=
  polyAt_transition _ _ _

/-- The bits of a polynomial, constant term first. -/
def polyBits (v : Data) : List Bool := (List.range 128).map fun k => v.getLsbD k

/-- The engine's loop evaluates the polynomial of its bits. -/
theorem jumpLoop_polyBits (v : Data) (s : Words) :
    jumpLoop (polyBits v) Words.zero s = polyVal v s := by
  rw [jumpLoop_eq_polyAt, Words.zero_xor]
  simp only [polyBits, List.length_map, List.length_range, polyVal]
  refine polyAt_congr (fun k hk => ?_) s
  simp [List.getD_eq_getElem?_getD, List.getElem?_range hk]

/-- `JumpPoly(C, S)` is the value of the polynomial whose coefficients are the constant's 128 bits,
word 0 least significant. -/
theorem jumpPoly_eq_polyVal (c s : Words) : jumpPoly c s = polyVal (dataOf c) s := by
  rw [← jumpLoop_polyBits, jumpPoly]
  congr 1
  refine List.ext_getElem (by simp [constBits_length, polyBits]) fun k _ _ => ?_
  simp only [constBits, wordBits, polyBits, dataOf, List.getElem_append, List.getElem_map,
    List.getElem_range, BitVec.getLsbD_append, List.length_map, List.length_range,
    List.length_append]
  split_ifs <;> first | (exfalso; omega) | rfl

/-! ### Two linear maps that agree on the unit vectors agree -/

theorem word_span (P : Word → Prop) (h0 : P 0) (hx : ∀ a b, P a → P b → P (a ^^^ b))
    (hu : ∀ k < 32, P (BitVec.twoPow 32 k)) (w : Word) : P w := by
  have below : ∀ n ≤ 32, ∀ w : Word, (∀ k, n ≤ k → w.getLsbD k = false) → P w := by
    intro n hn
    induction n with
    | zero =>
      intro w hw
      have hw0 : w = 0 := BitVec.eq_of_getLsbD_eq fun i _ => by simpa using hw i (by omega)
      exact hw0 ▸ h0
    | succ n ih =>
      intro w hw
      by_cases hb : w.getLsbD n
      · have split : w = (w ^^^ BitVec.twoPow 32 n) ^^^ BitVec.twoPow 32 n := by
          rw [BitVec.xor_assoc]; simp
        rw [split]
        refine hx _ _ (ih (by omega) _ fun k hk => ?_) (hu n (by omega))
        rw [BitVec.getLsbD_xor, BitVec.getLsbD_twoPow]
        rcases Nat.eq_or_lt_of_le hk with rfl | h
        · simp [hb]; omega
        · rw [hw k h]; simp; omega
      · refine ih (by omega) w fun k hk => ?_
        rcases Nat.eq_or_lt_of_le hk with rfl | h
        · simpa using hb
        · exact hw k h
  exact below 32 (by omega) w fun k hk => BitVec.getLsbD_of_ge w k hk

/-- The four unit vectors with bit k of one word set. -/
def unitWords (k : Nat) : List Words :=
  [⟨BitVec.twoPow 32 k, 0, 0, 0⟩, ⟨0, BitVec.twoPow 32 k, 0, 0⟩,
   ⟨0, 0, BitVec.twoPow 32 k, 0⟩, ⟨0, 0, 0, BitVec.twoPow 32 k⟩]

theorem words_span (P : Words → Prop) (h0 : P Words.zero)
    (hx : ∀ a b, P a → P b → P (a.xor b)) (hu : ∀ k < 32, ∀ s ∈ unitWords k, P s) (s : Words) :
    P s := by
  obtain ⟨a, b, c, d⟩ := s
  have ha : P ⟨a, 0, 0, 0⟩ := word_span (fun w => P ⟨w, 0, 0, 0⟩) h0
    (fun x y px py => by simpa [Words.xor] using hx _ _ px py)
    (fun k hk => hu k hk _ (by simp [unitWords])) a
  have hb : P ⟨0, b, 0, 0⟩ := word_span (fun w => P ⟨0, w, 0, 0⟩) h0
    (fun x y px py => by simpa [Words.xor] using hx _ _ px py)
    (fun k hk => hu k hk _ (by simp [unitWords])) b
  have hc : P ⟨0, 0, c, 0⟩ := word_span (fun w => P ⟨0, 0, w, 0⟩) h0
    (fun x y px py => by simpa [Words.xor] using hx _ _ px py)
    (fun k hk => hu k hk _ (by simp [unitWords])) c
  have hd : P ⟨0, 0, 0, d⟩ := word_span (fun w => P ⟨0, 0, 0, w⟩) h0
    (fun x y px py => by simpa [Words.xor] using hx _ _ px py)
    (fun k hk => hu k hk _ (by simp [unitWords])) d
  simpa [Words.xor] using hx _ _ (hx _ _ ha hb) (hx _ _ hc hd)

/-! ### The characteristic polynomial of T -/

/-- The characteristic polynomial of T without its leading term x^128. -/
def charLow : Data := 0xFC65A2006254B11B489DB6DE18FC01

/-- The engine's loop together with the working state it ends in. -/
def loopBoth : List Bool → Words → Words → Words × Words
  | [], acc, s => (acc, s)
  | b :: bs, acc, s => loopBoth bs (if b then acc.xor s else acc) (transition s)

theorem loopBoth_eq (bs : List Bool) (acc s : Words) :
    loopBoth bs acc s = (jumpLoop bs acc s, transitionN bs.length s) := by
  induction bs generalizing acc s with
  | nil => rfl
  | cons b bs ih => rw [loopBoth, ih]; rfl

/-- Whether the characteristic polynomial sends one vector to zero. -/
def charCheck (s : Words) : Bool :=
  let r := loopBoth (polyBits charLow) Words.zero s
  r.1 == r.2

theorem charCheck_sound {s : Words} (h : charCheck s = true) :
    polyVal charLow s = transitionN 128 s := by
  simp only [charCheck, loopBoth_eq, beq_iff_eq] at h
  rw [← jumpLoop_polyBits]
  exact h.trans (by simp [polyBits])

theorem charCheck_units :
    ((List.range 32).all fun k => (unitWords k).all charCheck) = true := by
  decide +kernel

/-- T satisfies its characteristic polynomial. -/
theorem polyVal_charLow (s : Words) : polyVal charLow s = transitionN 128 s := by
  refine words_span (fun s => polyVal charLow s = transitionN 128 s) ?_ ?_ ?_ s
  · exact (polyVal_of_zero _).trans (transitionN_of_zero _).symm
  · intro a b ha hb
    rw [polyVal_add, transitionN_xor, ha, hb]
  · intro k hk s hs
    exact charCheck_sound
      (List.all_eq_true.mp (List.all_eq_true.mp charCheck_units k (List.mem_range.mpr hk)) s hs)

/-! ### Multiplication modulo the characteristic polynomial -/

/-- Multiplication by x. -/
def mulX (v : Data) : Data := if v.msb then (v <<< 1) ^^^ charLow else v <<< 1

theorem polyAt_shift (f : Nat → Bool) (n : Nat) (s : Words) :
    polyAt (fun k => decide (0 < k) && f (k - 1)) (n + 1) s = transition (polyAt f n s) := by
  rw [polyAt_head]; simp

theorem polyVal_shift (v : Data) (s : Words) :
    (polyVal (v <<< 1) s).xor (Words.pick v.msb (transitionN 128 s)) =
      transition (polyVal v s) := by
  have hm : v.msb = (decide (0 < 128) && v.getLsbD (128 - 1)) := by
    simp [BitVec.msb_eq_getLsbD_last]
  have hf : ∀ k < 128, (v <<< 1).getLsbD k = (decide (0 < k) && v.getLsbD (k - 1)) := by
    intro k hk
    rw [BitVec.getLsbD_shiftLeft]
    rcases k with _ | k <;> simp [hk]
  rw [polyVal, polyVal, polyAt_congr hf, ← polyAt_shift, polyAt_succ _ 128, hm]

theorem polyVal_mulX (v : Data) (s : Words) : polyVal (mulX v) s = transition (polyVal v s) := by
  rw [← polyVal_shift, mulX]
  split <;> rename_i h
  · simp [h, polyVal_xor, polyVal_charLow]
  · simp [h]

/-- Multiplication by the polynomial with the given bits. -/
def mulBits : List Bool → Data → Data
  | [], _ => 0
  | b :: bs, q => (if b then q else 0) ^^^ mulX (mulBits bs q)

theorem polyVal_mulBits (bs : List Bool) (q : Data) (s : Words) :
    polyVal (mulBits bs q) s = jumpLoop bs Words.zero (polyVal q s) := by
  induction bs with
  | nil => exact polyVal_zero s
  | cons b bs ih =>
    have hb : polyVal (if b then q else 0) s = Words.pick b (polyVal q s) := by
      cases b
      · exact polyVal_zero s
      · rfl
    rw [mulBits, polyVal_xor, hb, polyVal_mulX, ih, jumpLoop_cons, jumpLoop_transition]

/-- The product of two polynomials is the composition of their values. -/
theorem polyVal_mul (p q : Data) (s : Words) :
    polyVal (mulBits (polyBits p) q) s = polyVal p (polyVal q s) := by
  rw [polyVal_mulBits, jumpLoop_polyBits]

/-- The square of the polynomial with the given bits: over GF(2) it spreads the bits. -/
def squareBits : List Bool → Data
  | [] => 0
  | b :: bs => (if b then 1 else 0) ^^^ mulX (mulX (squareBits bs))

theorem polyVal_squareBits (bs : List Bool) (s : Words) :
    polyVal (squareBits bs) s = jumpLoop bs Words.zero (jumpLoop bs Words.zero s) := by
  induction bs with
  | nil => exact polyVal_zero s
  | cons b bs ih =>
    have hb : polyVal (if b then 1 else 0) s = Words.pick b s := by
      cases b
      · exact polyVal_zero s
      · exact polyVal_one s
    rw [squareBits, polyVal_xor, hb, polyVal_mulX, polyVal_mulX, ih, jumpLoop_cons, jumpLoop_cons,
      jumpLoop_transition, jumpLoop_transition, jumpLoop_xor, jumpLoop_pick, jumpLoop_transition,
      transition_xor, transition_pick]
    cases b <;> simp [Words.xor_assoc]

/-- x^(2^n) from x: `n` squarings of a polynomial. -/
def squareN : Nat → Data → Data
  | 0, v => v
  | n + 1, v => squareN n (squareBits (polyBits v))

/-- If a polynomial's value is T^m, squaring it n times gives T^(m * 2^n). -/
theorem polyVal_squareN (n : Nat) {v : Data} {m : Nat}
    (h : ∀ s, polyVal v s = transitionN m s) (s : Words) :
    polyVal (squareN n v) s = transitionN (m * 2 ^ n) s := by
  induction n generalizing v m with
  | zero => simpa [squareN] using h s
  | succ n ih =>
    have square : ∀ s, polyVal (squareBits (polyBits v)) s = transitionN (m + m) s := by
      intro s
      rw [polyVal_squareBits, jumpLoop_polyBits, jumpLoop_polyBits, h, h, transitionN_add]
    rw [squareN, ih square]
    congr 1
    ring

/-- The polynomial x. -/
theorem polyVal_x (s : Words) : polyVal 2 s = transitionN 1 s := by
  have hx : (2 : Data) = mulX 1 := by decide
  rw [hx, polyVal_mulX, polyVal_one]
  rfl

/-- x^e modulo the characteristic polynomial, by squaring and multiplying over `fuel` bits of e. -/
def xPow : Nat → Nat → Data
  | 0, _ => 1
  | fuel + 1, e =>
    let h := squareBits (polyBits (xPow fuel (e / 2)))
    if e % 2 = 1 then mulX h else h

/-- The value of x^e is T^e. -/
theorem polyVal_xPow (fuel e : Nat) (he : e < 2 ^ fuel) (s : Words) :
    polyVal (xPow fuel e) s = transitionN e s := by
  induction fuel generalizing e s with
  | zero =>
    have e0 : e = 0 := by omega
    subst e0
    exact polyVal_one s
  | succ fuel ih =>
    have square : ∀ s, polyVal (squareBits (polyBits (xPow fuel (e / 2)))) s =
        transitionN (e / 2 + e / 2) s := by
      intro s
      rw [polyVal_squareBits, jumpLoop_polyBits, jumpLoop_polyBits, ih _ (by omega),
        ih _ (by omega), transitionN_add]
    simp only [xPow]
    split_ifs with odd
    · rw [polyVal_mulX, square, ← transitionN_succ']
      exact congrArg (transitionN · s) (by omega)
    · rw [square]
      exact congrArg (transitionN · s) (by omega)

end Sys2Proof.Machine
end

