-- ==== Sys2Proof/Tests/Slice0.lean ====
section
/-!
SUPPORT. The model's own tests: ill-formed commands that the check refuses, commands written out from
the spec's encoding, single steps with results taken from spec/95_test_vectors.md (the row is named
at each), and for each statement that has hypotheses a concrete case that meets them.
-/

namespace Sys2Proof.Tests

open Sys2Proof Sys2Proof.Machine

/-- An idle block with SEEDED = 1 and the given words. -/
def seededAt (a b c d : Word) : State := ⟨.seeded ⟨a, b, c, d⟩, .idle, none, []⟩

/-- The reference state (1, 2, 3, 4). -/
def refState : State := seededAt 1 2 3 4

/-- The generator after an outcome. -/
def genAfter : Host.Outcome State Fault Refusal → Option Gen
  | .next t => some t.gen
  | .fault _ => none
  | .refused _ => none

/-- The response after an outcome. -/
def rspAfter : Host.Outcome State Fault Refusal → Option Response
  | .next t => t.rsp
  | .fault _ => none
  | .refused _ => none

/-- The state words in a generator. -/
def wordsIn : Gen → Option Words
  | .unseeded => none
  | .seeded w => some w

/-- The state words after an outcome. -/
def wordsAfterOf (o : Host.Outcome State Fault Refusal) : Option Words :=
  (genAfter o).bind wordsIn

/-! ### WellFormed: an ill-formed command for each check -/

/-- R61, A10: RSV is not 0000. -/
theorem test_illformed_rsv : (⟨0x11, 0⟩ : Command).legal = false := by decide

/-- R68, A11 and A9: OP 0x0, 0xA and 0xF are reserved. -/
theorem test_illformed_op : (⟨0x00, 0⟩ : Command).legal = false ∧
    (⟨0x0A, 0⟩ : Command).legal = false ∧ (⟨0x0F, 0⟩ : Command).legal = false := by decide

/-- R62, A8: format N allows no data, at either end of the field. -/
theorem test_illformed_formatN : (⟨0x03, 1⟩ : Command).legal = false ∧
    (⟨0x07, 0x80000000_00000000_00000000_00000000⟩ : Command).legal = false := by decide

/-- R62, S12: format Q allows no data in bits 127:64, and any in bits 63:0. -/
theorem test_illformed_formatQ :
    (⟨0x06, 0x00000000_00000001_00000000_00000000⟩ : Command).legal = false ∧
    (⟨0x06, 0x00000000_00000000_80000000_00000000⟩ : Command).legal = true := by decide

/-- R66: the first and the last OP of the map are legal. -/
theorem test_wellformed_ends : (⟨0x01, 0⟩ : Command).legal = true ∧
    (⟨0x09, 0xFFFFFFFF_FFFFFFFF_FFFFFFFF_FFFFFFFF⟩ : Command).legal = true := by decide

/-! ### Decoding, from R66's map and R62's formats (the encodings of spec/95, programs P1 to P3) -/

theorem test_decode_nextp : decode ⟨0x01, 0⟩ = .ok .nextp := rfl

theorem test_decode_nextss : decode ⟨0x02, 0⟩ = .ok .nextss := rfl

theorem test_decode_jump : decode ⟨0x03, 0⟩ = .ok .jump := rfl

theorem test_decode_ljump : decode ⟨0x04, 0⟩ = .ok .ljump := rfl

/-- Byte 0 of the operand is the least significant one (R63). -/
theorem test_decode_seedb :
    decode ⟨0x05, 0x0F0E0D0C_0B0A0908_07060504_03020100⟩ =
      .ok (.seedb 0x0F0E0D0C_0B0A0908_07060504_03020100) ∧
    byteLane 0x0F0E0D0C_0B0A0908_07060504_03020100 0 = 0x00 ∧
    byteLane 0x0F0E0D0C_0B0A0908_07060504_03020100 15 = 0x0F := ⟨rfl, by decide, by decide⟩

theorem test_decode_seed64 :
    decode ⟨0x06, 0x00000000_00000000_00000000_0000002A⟩ = .ok (.seed64 42) := rfl

theorem test_decode_rdst : decode ⟨0x07, 0⟩ = .ok .rdst := rfl

/-- Word 0 is the least significant word (R64; A4). -/
theorem test_decode_wrst : decode ⟨0x08, 0x00003000_00000402_00000000_00000007⟩ =
    .ok (.wrst ⟨7, 0, 0x402, 0x3000⟩) := rfl

theorem test_decode_eqst : decode ⟨0x09, 0x00000005_00000003_00000002_00000001⟩ =
    .ok (.eqst ⟨1, 2, 3, 5⟩) := rfl

/-- The table's numbering: `cmd_op` in bits 7:0, data from bit 8 (assumption 6). -/
theorem test_tableWord : decodeTableWord 8 0x05 = some (.seedb 0) ∧
    decodeTableWord 136 0x2A06 = some (.seed64 42) ∧ decodeTableWord 8 0x0A = none := by decide

/-! ### One step of each instruction (spec/95) -/

/-- V1.1, draw 1: 5, and T1. -/
theorem test_nextp : rspAfter (exec .nextp refState) = some ⟨.ok, 5⟩ ∧
    wordsAfterOf (exec .nextp refState) = some ⟨7, 0, 0x402, 0x3000⟩ := by decide

/-- E1: the sum wraps. -/
theorem test_nextp_wraps :
    rspAfter (exec .nextp (seededAt 0xFFFFFFFF 0 0 1)) = some ⟨.ok, 0⟩ := by decide

/-- V1.2, draw 1: 11520. -/
theorem test_nextss : rspAfter (exec .nextss refState) = some ⟨.ok, 11520⟩ ∧
    wordsAfterOf (exec .nextss refState) = some ⟨7, 0, 0x402, 0x3000⟩ := by decide

/-- Section 4: bits rotated out of the top, and the wrapped product. -/
theorem test_nextss_rotates :
    rspAfter (exec .nextss (seededAt 0 0x02000000 0 0)) = some ⟨.ok, 0x2D⟩ ∧
    rspAfter (exec .nextss (seededAt 0 0xFFFFFFFF 0 0)) = some ⟨.ok, 0xFFFFEDF7⟩ := by decide

/-- V1.3. -/
theorem test_jump : wordsAfterOf (exec .jump refState) =
    some ⟨2843103750, 2038079848, 1533207345, 44816753⟩ := by decide +kernel

/-- J8. -/
theorem test_jump_unit : wordsAfterOf (exec .jump (seededAt 0 0 0 1)) =
    some ⟨0x5A074260, 0x48E4FA02, 0x4DD2B497, 0x595185A8⟩ := by decide +kernel

/-- V1.4. -/
theorem test_ljump : wordsAfterOf (exec .ljump refState) =
    some ⟨1611968294, 2125834322, 966769569, 3193880526⟩ := by decide +kernel

/-- J7. -/
theorem test_ljump_unit : wordsAfterOf (exec .ljump (seededAt 1 0 0 0)) =
    some ⟨0xD5997BDF, 0xB01B22FE, 0x0917034C, 0xFFE7AEA2⟩ := by decide +kernel

/-- S10. -/
theorem test_seedb :
    wordsAfterOf (exec (.seedb 0x80000000_00000000_00000000_12345678) State.reset) =
      some ⟨0x12345678, 0, 0, 0x80000000⟩ := by decide +kernel

/-- S9: one byte that is not zero, the last. -/
theorem test_seedb_last :
    wordsAfterOf (exec (.seedb 0x01000000_00000000_00000000_00000000) refState) =
      some ⟨0, 0, 0, 0x01000000⟩ := by decide +kernel

/-- S3. -/
theorem test_seed64 : wordsAfterOf (exec (.seed64 42) State.reset) =
    some ⟨0x2FEB6E95, 0xBDD73226, 0xB266F103, 0x28EFE333⟩ := by decide +kernel

/-- S5: the first increment wraps to 0. -/
theorem test_seed64_wraps : wordsAfterOf (exec (.seed64 0x61C8864680B583EB) refState) =
    some ⟨0, 0, 0x7B1DCDAF, 0xE220A839⟩ := by decide +kernel

/-- A1. -/
theorem test_rdst : rspAfter (exec .rdst refState) =
    some ⟨.ok, 0x00000004_00000003_00000002_00000001⟩ := by decide

/-- A7. -/
theorem test_rdst_unseeded : rspAfter (exec .rdst State.reset) = some ⟨.unseeded, 0⟩ ∧
    genAfter (exec .rdst State.reset) = some .unseeded := by decide

/-- A4. -/
theorem test_wrst : genAfter (exec (.wrst ⟨7, 0, 0x402, 0x3000⟩) State.reset) =
    some (.seeded ⟨7, 0, 0x402, 0x3000⟩) := by decide

/-- A12: four zero words are written as they are. -/
theorem test_wrst_zero : genAfter (exec (.wrst ⟨0, 0, 0, 0⟩) refState) =
    some (.seeded ⟨0, 0, 0, 0⟩) := by decide

/-- A2 and A3. -/
theorem test_eqst : rspAfter (exec (.eqst ⟨1, 2, 3, 4⟩) refState) = some ⟨.ok, 1⟩ ∧
    rspAfter (exec (.eqst ⟨1, 2, 3, 5⟩) refState) = some ⟨.ok, 0⟩ := by decide

/-- EQST leaves the state alone. -/
theorem test_eqst_keeps : wordsAfterOf (exec (.eqst ⟨0, 0, 0, 0⟩) refState) =
    some ⟨1, 2, 3, 4⟩ := by decide

/-- A8: ILLEGAL goes before UNSEEDED. -/
theorem test_illegal_first :
    rspAfter (complete ⟨0x03, 1⟩ State.reset) = some ⟨.illegal, 0⟩ := by decide

/-- A10: a reserved encoding takes no step. -/
theorem test_illegal_keeps : genAfter (complete ⟨0x11, 0⟩ refState) =
    some (.seeded ⟨1, 2, 3, 4⟩) := by decide

/-- R102: SplitMix64 from state 0 (section 3, iteration 1). -/
theorem test_splitMix : splitMix 0 = (0x9E3779B97F4A7C15, 0xE220A8397B1DCDAF) := by decide +kernel

/-- T6 and T10. -/
theorem test_transition : transition ⟨0, 0x80000000, 0, 0⟩ = ⟨0x80000000, 0x80000000, 0, 0x400⟩ ∧
    transition ⟨0x12345678, 0x9ABCDEF0, 0x0FEDCBA9, 0x87654321⟩ =
      ⟨0x0FEDCBA9, 0x87654321, 0x64647DD1, 0xCCEE88EE⟩ := by decide

/-! ### The ports -/

/-- A reset edge abandons a command in progress (R180, D23). -/
theorem test_reset_edge :
    step ⟨.seeded ⟨1, 2, 3, 4⟩, .busy ⟨0x03, 0⟩ 0, none, [⟨true, true, 0x01, 0⟩]⟩ =
      .next ⟨.unseeded, .inReset, none, []⟩ := rfl

/-- `cmd_ready` after a reset edge: 0 while `rst` stays 1, 1 at the first edge with `rst` = 0. -/
theorem test_ready_after_reset :
    (⟨.unseeded, .inReset, none, [⟨true, false, 0, 0⟩]⟩ : State).cmdReady = false ∧
    (⟨.unseeded, .inReset, none, [⟨false, false, 0, 0⟩]⟩ : State).cmdReady = true := by decide

/-- A placed command runs as the first instruction after reset. -/
theorem test_placed : step (State.reset.withFetchWord 8 0x01) =
    .next ⟨.unseeded, .idle, some ⟨.unseeded, 0⟩, []⟩ := rfl

/-- A response is held while nothing is offered, and dropped at the next acceptance. -/
theorem test_hold : step ⟨.unseeded, .idle, some ⟨.illegal, 0⟩, []⟩ =
    .next ⟨.unseeded, .idle, some ⟨.illegal, 0⟩, []⟩ ∧
    step ⟨.unseeded, .idle, some ⟨.illegal, 0⟩, [Pins.offer ⟨0x01, 0⟩]⟩ =
      .next ⟨.unseeded, .busy ⟨0x01, 0⟩ (latency ⟨0x01, 0⟩ - 1), none, []⟩ := ⟨rfl, rfl⟩

/-! ### The host's side (section 7, programs P3 and P4) -/

/-- H1. -/
theorem test_next64 : (next64 .plus refState).map Prod.fst = some 0x0000300700000005 := by decide

/-- H3. -/
theorem test_fill :
    (fill .plus 6 refState).map Prod.fst = some [0x05, 0, 0, 0, 0x07, 0x30] := by decide

/-- H4: no byte, no command. -/
theorem test_fill_none : fill .plus 0 refState = some ([], refState) := by decide

/-- Two blocks, as in P3: A with the reference state, B fresh from reset. -/
def pair : Blocks := [(['A'], refState), (['B'], State.reset)]

/-- P3, lines 2 and 3: CLONE A, B. -/
theorem test_clone : ((Blocks.clone ['A'] ['B'] pair).bind fun p => Blocks.find ['B'] p.2).map
    State.gen = some (.seeded ⟨1, 2, 3, 4⟩) := by decide

/-- EQ of two equal blocks, and of two different ones. -/
theorem test_equal :
    (Blocks.equal ['A'] ['B'] [(['A'], refState), (['B'], refState)]).map Prod.fst =
      some ⟨.ok, 1⟩ ∧
    (Blocks.equal ['A'] ['B'] [(['A'], refState), (['B'], seededAt 1 2 3 5)]).map Prod.fst =
      some ⟨.ok, 0⟩ := by decide

/-- SEEDW 1, 2, 3, 4 is the operand of P1, line 1. -/
theorem test_seedw : seedwCommand ⟨1, 2, 3, 4⟩ =
    ⟨0x05, 0x00000004_00000003_00000002_00000001⟩ := by decide

/-- P3, line 8: an instance prefix, decimal and hexadecimal operands. -/
theorem test_asm_line : parseLine ['B', '.', 'E', 'Q', 'S', 'T', ' ', '7', ',', ' ', '0', ',', ' ',
      '0', 'x', '4', '0', '2', ',', '0', 'x', '3', '0', '0', '0'] =
    some (some ['B'], ⟨0x09, 0x00003000_00000402_00000000_00000007⟩) := by decide

/-- R73: an operand out of range is rejected, not truncated; so is a missing one. -/
theorem test_asm_range : assemble .seed64 [2 ^ 64] = none ∧
    assemble .seed64 [2 ^ 64 - 1] = some ⟨0x06, 0xFFFFFFFFFFFFFFFF⟩ ∧
    assemble .wrst [1, 2, 3] = none ∧ assemble .nextp [0] = none := by decide

/-! ### Witnesses: for each statement with hypotheses, a case that meets them -/

/-- A block in the middle of a JUMP, its host quiet. -/
def jumping (left : Nat) : State := ⟨.seeded ⟨1, 2, 3, 4⟩, .busy ⟨0x03, 0⟩ left, none, []⟩

theorem test_witness_ResetLeavesNoValue :
    State.reset.seeded = false ∧ needsState .nextp = true := by decide

theorem test_witness_ResetEdgeClearsTheBlock :
    (⟨.seeded ⟨1, 2, 3, 4⟩, .busy ⟨0x03, 0⟩ 7, none, [⟨true, true, 1, 0⟩]⟩ : State).pins.rst = true ∧
    (⟨.unseeded, .inReset, none, [⟨true, false, 0, 0⟩]⟩ : State).pins.rst = true ∧
    (⟨.unseeded, .inReset, none, []⟩ : State).pins.rst = false ∧
    (⟨.unseeded, .inReset, none, []⟩ : State).pins.cmdValid = false := by decide

theorem test_witness_FirstEdgeAfterResetAccepts :
    (⟨.unseeded, .inReset, none, [Pins.offer ⟨0x05, 1⟩]⟩ : State).phase = .inReset := rfl

/-- An idle block and one just out of reset, each with a command offered. -/
theorem test_witness_AcceptedExactlyWhenReady_accept :
    let s : State := ⟨.seeded ⟨1, 2, 3, 4⟩, .idle, none, [Pins.offer ⟨0x01, 0⟩]⟩
    let r : State := ⟨.unseeded, .inReset, none, [Pins.offer ⟨0x01, 0⟩]⟩
    (s.pins.rst = false ∧ s.cmdReady = true ∧ s.pins.cmdValid = true) ∧
      r.pins.rst = false ∧ r.cmdReady = true ∧ r.pins.cmdValid = true := by decide

/-- A waiting block stays busy, and an accepting one becomes busy. -/
theorem test_witness_AcceptedExactlyWhenReady_busy :
    step (jumping 1) = .next (jumping 0) ∧ (jumping 0).phase = .busy ⟨0x03, 0⟩ 0 ∧
      (jumping 1).pins.rst = false ∧
      step ⟨.unseeded, .idle, none, [Pins.offer ⟨0x01, 0⟩]⟩ =
        .next ⟨.unseeded, .busy ⟨0x01, 0⟩ (latency ⟨0x01, 0⟩ - 1), none, []⟩ := by
  refine ⟨rfl, rfl, rfl, rfl⟩

theorem test_witness_CommandCompletesAfterItsLatency :
    let s : State := ⟨.unseeded, .idle, none, [Pins.offer ⟨0x05, 1⟩]⟩
    s.cmdReady = true ∧ s.inputs = Pins.offer ⟨0x05, 1⟩ :: [] ∧
      (∀ p ∈ ([] : List Pins).take (latency ⟨0x05, 1⟩), p.rst = false) ∧
      s.rspValid = false ∧ State.reset.phase = .idle ∧ State.reset.pins.rst = false ∧
      State.reset.pins.cmdValid = false := by
  refine ⟨rfl, rfl, ?_, rfl, rfl, rfl, rfl⟩
  simp

theorem test_witness_ResponseHeldUntilNextAcceptance :
    (jumping 0).pins.rst = false ∧ (genAfter (step (jumping 0))).isSome = true ∧
      (∀ c n, State.reset.phase ≠ .busy c n) ∧
      step State.reset = .next State.reset ∧
      step ⟨.unseeded, .idle, some ⟨.illegal, 0⟩, [Pins.offer ⟨0x01, 0⟩]⟩ =
        .next ⟨.unseeded, .busy ⟨0x01, 0⟩ (latency ⟨0x01, 0⟩ - 1), none, []⟩ ∧
      step (jumping 1) = .next (jumping 0) := by
  refine ⟨rfl, by decide +kernel, fun c n h => ?_, rfl, rfl, rfl⟩
  cases h

theorem test_witness_StepRunsTheDecodedInstruction :
    (jumping 0).phase = .busy ⟨0x03, 0⟩ 0 ∧ decode ⟨0x03, 0⟩ = .ok .jump ∧
      (jumping 0).pins.rst = false ∧ decode ⟨0x0A, 0⟩ = .error .reservedOp ∧
      decodeTableWord 8 0x03 = some .jump := ⟨rfl, rfl, rfl, rfl, rfl⟩

theorem test_witness_PortInvKept :
    PortInv State.reset ∧ step State.reset = .next State.reset := by
  refine ⟨?_, rfl⟩
  constructor <;> simp [State.reset]

theorem test_witness_IdleBlockHoldsItsState :
    State.reset.phase = .idle ∧
      ∀ p ∈ [Pins.quiet, Pins.quiet], p.rst = false ∧ p.cmdValid = false := by decide

theorem test_witness_ScheduledCommandsRunInOrder :
    let s : State := ⟨.unseeded, .idle, none, schedule [⟨0x05, 1⟩, ⟨0x01, 0⟩]⟩
    s.cmdReady = true ∧ s.inputs = schedule [⟨0x05, 1⟩, ⟨0x01, 0⟩] ++ [] := by
  refine ⟨rfl, ?_⟩
  simp

theorem test_witness_StateChangesOnlyAtCompletion :
    step (jumping 1) = .next (jumping 0) ∧ (jumping 1).pins.rst = false ∧
      (∀ c, (jumping 1).phase ≠ .busy c 0) ∧
      (⟨.unseeded, .idle, none, [⟨true, false, 0, 0⟩]⟩ : State).pins.rst = true := by
  refine ⟨rfl, rfl, fun c h => ?_, rfl⟩
  cases h

/-- A reset edge, a seeded block, and an unseeded one that a WRST constructs or a NEXTP does not. -/
theorem test_witness_SeededSetOnlyByConstruction :
    step ⟨.unseeded, .busy ⟨0x08, 5⟩ 0, none, []⟩ =
        .next ⟨.seeded ⟨5, 0, 0, 0⟩, .idle, some ⟨.ok, 0⟩, []⟩ ∧
      step ⟨.unseeded, .busy ⟨0x01, 0⟩ 0, none, []⟩ =
        .next ⟨.unseeded, .idle, some ⟨.unseeded, 0⟩, []⟩ ∧
      step refState = .next refState ∧ refState.seeded = true ∧
      step ⟨.seeded ⟨1, 2, 3, 4⟩, .idle, none, [⟨true, false, 0, 0⟩]⟩ =
        .next ⟨.unseeded, .inReset, none, []⟩ := ⟨rfl, rfl, rfl, rfl, rfl⟩

theorem test_witness_EncodeOfDecode : decode ⟨0x06, 42⟩ = .ok (.seed64 42) := rfl

theorem test_witness_DecodesExactlyTheLegal :
    (⟨0x0A, 0⟩ : Command).legal = false ∧ (⟨0x09, 1⟩ : Command).legal = true := by decide

/-- One command for each cause, and one with no cause. -/
theorem test_witness_IllegalCausesAndEffect :
    ((0x80 : Byte).extractLsb' 4 4 ≠ 0) ∧ ((0x00 : Byte).extractLsb' 0 4).toNat = 0 ∧
      0xA ≤ ((0x0A : Byte).extractLsb' 0 4).toNat ∧ ((0x07 : Byte).extractLsb' 0 4).toNat = 7 ∧
      ((0x06 : Byte).extractLsb' 0 4).toNat = 6 ∧
      (0x1_00000000_00000000 : Data).extractLsb' 64 64 ≠ 0 ∧
      (0x05 : Byte).extractLsb' 4 4 = 0 ∧ ((0x05 : Byte).extractLsb' 0 4).toNat = 5 := by decide

theorem test_witness_SeedBytesAreLittleEndian :
    (wordLane (dataOf (seedWords 0x80000000_00000000_00000000_12345678)) (15 / 4)).extractLsb'
        (8 * (15 % 4)) 8 = 0x80 ∧
      (wordLane (dataOf (seedWords 0x80000000_00000000_00000000_12345678)) (0 / 4)).extractLsb'
        (8 * (0 % 4)) 8 = 0x78 := by decide

theorem test_witness_NonzeroSeedBytesAreTheWords : (1 : Data) ≠ 0 := by decide

/-- The seeded and the unseeded case of every instruction's result. -/
theorem test_witness_results : refState.gen = .seeded ⟨1, 2, 3, 4⟩ ∧
    State.reset.gen = .unseeded := by decide

/-- Both sides of the legality test of formats N and Q. -/
theorem test_witness_operands : (0 : Data) = 0 ∧ (1 : Data) ≠ 0 ∧
    (42 : Data).extractLsb' 64 64 = 0 ∧
    (0x1_00000000_00000000 : Data).extractLsb' 64 64 ≠ 0 := by decide

/-- The round trip of WRST: RDST answers, and WRST takes its words. -/
theorem test_witness_WrstResult : refState.seeded = true ∧
    (rspAfter (exec .rdst refState)).map Response.data =
      some 0x00000004_00000003_00000002_00000001 := by decide

theorem test_witness_SeededCommandsReturnOk : refState.seeded = true := rfl

theorem test_witness_UnseededCauseAndEffect :
    exec .jump State.reset = .next ⟨.unseeded, .idle, some ⟨.unseeded, 0⟩, []⟩ ∧
      (⟨.unseeded, .idle, some ⟨.unseeded, 0⟩, []⟩ : State).rspStatus = some 2 := ⟨rfl, rfl⟩

theorem test_witness_OneStatusByPriority : (⟨0x03, 1⟩ : Command).legal = false ∧
    decode ⟨0x03, 0⟩ = .ok .jump ∧ needsState .jump = true ∧ State.reset.seeded = false ∧
    refState.seeded = true ∧ decode ⟨0x08, 0⟩ = .ok (.wrst ⟨0, 0, 0, 0⟩) ∧
    needsState (.wrst ⟨0, 0, 0, 0⟩) = false := ⟨by decide, rfl, rfl, rfl, rfl, rfl, rfl⟩

theorem test_witness_ResponseDataLayout :
    rspAfter (exec .nextp refState) = some ⟨.ok, 5⟩ ∧
    rspAfter (exec .rdst State.reset) = some ⟨.unseeded, 0⟩ ∧
    rspAfter (exec .rdst refState) = some ⟨.ok, 0x00000004_00000003_00000002_00000001⟩ ∧
    rspAfter (exec (.eqst ⟨1, 2, 3, 4⟩) refState) = some ⟨.ok, 1⟩ ∧
    rspAfter (exec (.wrst ⟨0, 0, 0, 0⟩) refState) = some ⟨.ok, 0⟩ := by decide

theorem test_witness_FrameOfEveryInstruction :
    exec .rdst State.reset = .next ⟨.unseeded, .idle, some ⟨.unseeded, 0⟩, []⟩ ∧
      needsState .rdst = true ∧ needsState (.seed64 0) = false ∧
      refState.inputs = State.reset.inputs := ⟨rfl, rfl, rfl, rfl⟩

theorem test_witness_NonzeroPeriodIsExact : (⟨1, 0, 0, 0⟩ : Words) ≠ Words.zero := by decide

theorem test_witness_NoSequenceReachesZero : refState.gen = .seeded ⟨1, 2, 3, 4⟩ ∧
    (⟨1, 2, 3, 4⟩ : Words) ≠ Words.zero ∧ ∀ i ∈ [Instr.nextp, .nextss, .jump, .ljump],
      i = .nextp ∨ i = .nextss ∨ i = .jump ∨ i = .ljump := by decide

theorem test_witness_VariantsShareOneSequence : refState.gen = .seeded ⟨1, 2, 3, 4⟩ := rfl

/-- The farthest pair of clones, and the last states of their subsequences. -/
theorem test_witness_JumpedStreamsDoNotOverlap : (⟨1, 2, 3, 4⟩ : Words) ≠ Words.zero ∧
    (0 : Nat) < 2 ^ 64 - 2 ∧ (2 : Nat) ^ 64 - 2 < 2 ^ 64 - 1 ∧
    (2 : Nat) ^ 64 - 1 < 2 ^ 64 := by decide

theorem test_witness_OnlyZeroWriteReachesZero : NonZero refState ∧
    exec (.wrst Words.zero) refState = .next ⟨.seeded Words.zero, .idle, some ⟨.ok, 0⟩, []⟩ ∧
    exec .rdst State.reset = .next ⟨.unseeded, .idle, some ⟨.unseeded, 0⟩, []⟩ := by
  refine ⟨fun h => ?_, rfl, rfl⟩
  revert h
  decide

theorem test_witness_NonZeroKept : NonZero (jumping 1) ∧ NoZeroWrite (jumping 1) ∧
    step (jumping 1) = .next (jumping 0) := by
  refine ⟨fun h => ?_, ⟨fun c n h => ?_, fun p hp => ?_⟩, rfl⟩
  · revert h
    decide
  · cases h
    intro h
    cases h
  · cases hp

theorem test_witness_ZeroStateIsAFixedPoint :
    (seededAt 0 0 0 0).gen = .seeded Words.zero := by decide

theorem test_witness_RepeatingACommand : needsState (.wrst ⟨1, 2, 3, 4⟩) = false ∧
    exec (.wrst ⟨1, 2, 3, 4⟩) State.reset = .next ⟨.seeded ⟨1, 2, 3, 4⟩, .idle, some ⟨.ok, 0⟩, []⟩ ∧
    refState.gen = .seeded ⟨1, 2, 3, 4⟩ ∧ (⟨1, 2, 3, 4⟩ : Words) ≠ Words.zero ∧
    wordsAfterOf (exec .nextp refState) = some ⟨7, 0, 0x402, 0x3000⟩ ∧
    wordsAfterOf (exec .nextp (seededAt 7 0 0x402 0x3000)) =
      some ⟨0x3007, 0x405, 0x405, 0x01800000⟩ := by
  refine ⟨rfl, rfl, rfl, ?_, ?_, ?_⟩ <;> decide

/-- J1 and J2: the second JUMP leaves another state than the first (90_conflicts.md C3). -/
theorem test_witness_RepeatingACommand_jump :
    wordsAfterOf (exec .jump refState) = some ⟨0xA9765206, 0x797AA168, 0x5B62E331, 0x02ABD971⟩ ∧
    wordsAfterOf (exec .jump (seededAt 0xA9765206 0x797AA168 0x5B62E331 0x02ABD971)) =
      some ⟨0x645171DB, 0x028FDF35, 0x3AF2B6FF, 0xE26789F5⟩ := by decide +kernel

theorem test_witness_BlocksShareNoState :
    ((Blocks.issue ['A'] ⟨0x01, 0⟩ pair).map Prod.fst = some ⟨.ok, 5⟩) ∧ ['B'] ≠ ['A'] := by decide

/-- Two ready blocks, one fresh from a WRST with its response held, and a block that is not ready. -/
theorem test_witness_EqualStatesGiveEqualStreams :
    let held : State := ⟨.seeded ⟨1, 2, 3, 4⟩, .idle, some ⟨.ok, 0⟩, []⟩
    refState.gen = held.gen ∧ refState.cmdReady = true ∧ held.cmdReady = true ∧
      refState.gen = (jumping 3).gen := by decide

theorem test_witness_CloneCopiesAndEqCompares : Blocks.find ['A'] pair = some refState ∧
    Blocks.find ['B'] pair = some State.reset ∧ refState.gen = .seeded ⟨1, 2, 3, 4⟩ ∧
    Blocks.find ['B'] [(['A'], refState), (['B'], seededAt 1 2 3 5)] =
      some (seededAt 1 2 3 5) := by decide

theorem test_witness_WideOutputIsLowWordFirst : refState.gen = .seeded ⟨1, 2, 3, 4⟩ := rfl

theorem test_witness_ByteFillIsLittleEndian : refState.gen = .seeded ⟨1, 2, 3, 4⟩ ∧
    (1 : Nat) < 4 ∧ 4 * 1 + 1 < 6 := by decide

theorem test_witness_SeedwSeedsFromWords : (⟨0, 0, 0, 1⟩ : Words) ≠ Words.zero := by decide

theorem test_witness_AssemblerNeverTruncates :
    assemble .seedb [255, 0, 0, 0, 0, 0, 0, 0, 0, 0, 0, 0, 0, 0, 0, 1] =
      some ⟨0x05, 0x01000000_00000000_00000000_000000FF⟩ ∧
    assemble .wrst [7, 0, 0x402, 2 ^ 32 - 1] =
      some ⟨0x08, 0xFFFFFFFF_00000402_00000000_00000007⟩ ∧
    assemble .seed64 [42] = some ⟨0x06, 42⟩ ∧
    assemble .eqst [7, 0, 0x402, 0x3000] =
      some ⟨0x09, 0x00003000_00000402_00000000_00000007⟩ ∧
    assemble .nextss [] = some ⟨0x02, 0⟩ := by decide

/-- The first and the last subsequence that the statement compares, and their last states. -/
theorem test_witness_LongJumpedStreamsDoNotOverlap : (⟨1, 2, 3, 4⟩ : Words) ≠ Words.zero ∧
    ((0 : Nat), (0 : Nat)) ≠ (2 ^ 32 - 1, 2 ^ 32 - 2) ∧ (0 : Nat) < 2 ^ 32 - 1 ∧
    (2 : Nat) ^ 32 - 1 < 2 ^ 32 ∧ (2 : Nat) ^ 32 - 2 < 2 ^ 32 - 1 ∧
    (2 : Nat) ^ 64 - 1 < 2 ^ 64 := by decide

end Sys2Proof.Tests
end

