-- ==== Sys2Proof/Proofs/State.lean ====
section
/-!
The generator's state and its flag, family 10_state: which instructions construct S (R23), what can
set SEEDED, and what can reach the all-zero state (R24).
-/

namespace Sys2Proof.Machine

/-! ### SEEDED after each named operation -/

@[simp] theorem State.raiseIllegal_seeded (s : State) : s.raiseIllegal.seeded = s.seeded := rfl

@[simp] theorem State.raiseUnseeded_seeded (s : State) : s.raiseUnseeded.seeded = s.seeded := rfl

@[simp] theorem State.accept_seeded (s : State) (c : Command) (n : Nat) :
    (s.accept c n).seeded = s.seeded := rfl

@[simp] theorem State.wait_seeded (s : State) (c : Command) (n : Nat) :
    (s.wait c n).seeded = s.seeded := rfl

@[simp] theorem State.idleEdge_seeded (s : State) : s.idleEdge.seeded = s.seeded := rfl

@[simp] theorem State.dropPins_seeded (s : State) : s.dropPins.seeded = s.seeded := rfl

/-! ### What sets SEEDED (R23) -/

/-- The instructions that do not read S are the three constructions. -/
theorem needsState_eq_false_iff (i : Instr) :
    needsState i = false ↔ (∃ b, i = .seedb b) ∨ (∃ v, i = .seed64 v) ∨ ∃ w, i = .wrst w := by
  cases i <;> simp [needsState]

/-- An instruction leaves SEEDED = 1 exactly if it was 1 or the instruction constructs S. -/
theorem exec_seeded_iff {i : Instr} {s t : State} (h : exec i s = .next t) :
    t.seeded = true ↔ s.seeded = true ∨ needsState i = false := by
  rcases exec_cases i s with ⟨hg, hi, he⟩ | ⟨-, hi, he⟩ | ⟨w, hg, he⟩
  · obtain rfl : s.raiseUnseeded = t := by simpa [he] using h
    simp [hi]
  · obtain rfl : (s.setWords (wordsAfter i Words.zero)).respond .ok 0 = t := by simpa [he] using h
    simp [hi]
  · obtain rfl : (s.setWords (wordsAfter i w)).respond .ok (dataAfter i w) = t := by
      simpa [he] using h
    simp [s.seeded_iff.mpr ⟨w, hg⟩]

/-- A completion leaves SEEDED = 1 exactly if it was 1 or the command decodes to a construction. -/
theorem complete_seeded_iff {c : Command} {s t : State} (h : complete c s = .next t) :
    t.seeded = true ↔ s.seeded = true ∨ ∃ i, decode c = .ok i ∧ needsState i = false := by
  cases hd : decode c with
  | error e =>
    obtain rfl : s.raiseIllegal = t := by simpa [complete_error hd] using h
    simp
  | ok i =>
    rw [complete_ok hd] at h
    simpa using exec_seeded_iff h

/-- An edge without reset leaves SEEDED = 1 exactly if it was 1 or the edge completes a
construction. -/
theorem step_seeded_iff {s t : State} (h : step s = .next t) (hr : s.pins.rst = false) :
    t.seeded = true ↔ s.seeded = true ∨
      ∃ c i, s.phase = .busy c 0 ∧ decode c = .ok i ∧ needsState i = false := by
  rcases step_cases s with ⟨hr', -⟩ | ⟨-, ⟨c, hp, he⟩ | ⟨c, n, hp, he⟩ | ⟨hp, ⟨-, he⟩ | ⟨-, he⟩⟩⟩
  · simp [hr] at hr'
  · simpa [hp] using complete_seeded_iff (he.symm.trans h)
  · obtain rfl : s.dropPins.wait c n = t := by simpa [he] using h
    simp [hp]
  · obtain rfl : s.dropPins.accept s.pins.command _ = t := by simpa [he] using h
    rcases hp with hp | hp <;> simp [hp]
  · obtain rfl : s.dropPins.idleEdge = t := by simpa [he] using h
    rcases hp with hp | hp <;> simp [hp]

/-- An edge with `rst` = 1 leaves SEEDED = 0. -/
theorem step_seeded_of_rst {s t : State} (h : step s = .next t) (hr : s.pins.rst = true) :
    t.seeded = false := by
  rcases step_cases s with ⟨-, he⟩ | ⟨hr', -⟩
  · obtain rfl : s.dropPins.resetEdge = t := by simpa [he] using h
    rfl
  · simp [hr] at hr'

/-! ### T and the jumps have a trivial kernel -/

theorem rotl32_11_eq_zero {x : Word} (h : rotl32 x 11 = 0) : x = 0 := by
  obtain ⟨hl, hr⟩ := BitVec.or_eq_zero_iff.mp h
  bv_omega

/-- Four words that T sends to zero are zero: the third equation of R80's closed form is left with
`w1 = w1 <<< 9`. -/
theorem transition_eq_zero_iff (w : Words) : transition w = Words.zero ↔ w = Words.zero := by
  refine ⟨fun h => ?_, by rintro rfl; exact transition_zero⟩
  obtain ⟨a, b, c, d⟩ := w
  simp only [transition_closed, Words.zero, Words.mk.injEq] at h
  obtain ⟨h0, h1, h2, h3⟩ := h
  obtain rfl : b = d := BitVec.xor_eq_zero_iff.mp (rotl32_11_eq_zero h3)
  obtain rfl : a = 0 := by simpa [BitVec.xor_assoc] using h0
  obtain rfl : b = c := by simpa using h1
  have hshift : b = b <<< 9 := by simpa using h2
  obtain rfl : b = 0 := by bv_omega
  rfl

theorem transitionN_eq_zero_iff (n : Nat) (w : Words) :
    transitionN n w = Words.zero ↔ w = Words.zero := by
  induction n with
  | zero => rfl
  | succ n ih => rw [transitionN_succ', transition_eq_zero_iff, ih]

theorem squareN_x_64 : squareN 64 2 = dataOf jumpConst := by decide +kernel

theorem squareN_jumpConst_32 : squareN 32 (dataOf jumpConst) = dataOf ljumpConst := by
  decide +kernel

/-- `JumpPoly(JUMP_C, S)` is T^(2^64)(S) (R122, R124). -/
theorem jumpPoly_jumpConst (w : Words) : jumpPoly jumpConst w = transitionN (2 ^ 64) w := by
  rw [jumpPoly_eq_polyVal, ← squareN_x_64, polyVal_squareN 64 polyVal_x, one_mul]

/-- `JumpPoly(LJUMP_C, S)` is T^(2^96)(S) (R123, R124): JUMP's polynomial squared 32 times. -/
theorem jumpPoly_ljumpConst (w : Words) : jumpPoly ljumpConst w = transitionN (2 ^ 96) w := by
  have hjump (s : Words) : polyVal (dataOf jumpConst) s = transitionN (2 ^ 64) s := by
    rw [← jumpPoly_eq_polyVal, jumpPoly_jumpConst]
  rw [jumpPoly_eq_polyVal, ← squareN_jumpConst_32, polyVal_squareN 32 hjump, ← pow_add]

/-! ### The constructions from a seed are not all zero (R9, R100 to R104) -/

theorem zeroSeedSubst_ne_zero : Config.zeroSeedSubst ≠ 0 := by
  unfold Config.zeroSeedSubst
  bv_omega

theorem substituteZero_ne_zero (b : Data) : substituteZero b ≠ 0 := by
  unfold substituteZero
  split
  · exact zeroSeedSubst_ne_zero
  · assumption

/-- Only sixteen zero bytes assemble to four zero words. -/
theorem seedWords_ne_zero {b : Data} (h : b ≠ 0) : seedWords b ≠ Words.zero := by
  intro hw
  rw [seedWords_eq_wordsOf] at hw
  exact h (by rw [← dataOf_wordsOf b, hw]; rfl)

theorem substituteZeroWords_ne_zero (w : Words) : substituteZeroWords w ≠ Words.zero := by
  unfold substituteZeroWords
  split
  · exact seedWords_ne_zero zeroSeedSubst_ne_zero
  · assumption

/-! ### What reaches the all-zero state (R24) -/

theorem nonZero_iff_of_gen {s : State} {w : Words} (h : s.gen = .seeded w) :
    NonZero s ↔ w ≠ Words.zero := by
  simp [NonZero, h]

theorem nonZero_of_unseeded {s : State} (h : s.gen = .unseeded) : NonZero s := by
  simp [NonZero, h]

/-- If the words an instruction reads are not all zero, only WRST of four zero words leaves zero;
a construction reads none. -/
theorem wordsAfter_eq_zero_iff (i : Instr) {w : Words} (hw : needsState i = true → w ≠ Words.zero) :
    wordsAfter i w = Words.zero ↔ i = .wrst Words.zero := by
  cases i with
  | nextp => simpa [wordsAfter, transition_eq_zero_iff] using hw rfl
  | nextss => simpa [wordsAfter, transition_eq_zero_iff] using hw rfl
  | jump => simpa [wordsAfter, jumpPoly_jumpConst, transitionN_eq_zero_iff] using hw rfl
  | ljump => simpa [wordsAfter, jumpPoly_ljumpConst, transitionN_eq_zero_iff] using hw rfl
  | seedb b => simpa [wordsAfter] using seedWords_ne_zero (substituteZero_ne_zero b)
  | seed64 v => simpa [wordsAfter] using substituteZeroWords_ne_zero _
  | rdst => simpa [wordsAfter] using hw rfl
  | wrst v => simp [wordsAfter]
  | eqst v => simpa [wordsAfter] using hw rfl

/-- A construction leaves zero exactly if it is WRST of four zero words, whatever came before. -/
theorem exec_construct_nonZero_iff {i : Instr} {s t : State} (hi : needsState i = false)
    (h : exec i s = .next t) : NonZero t ↔ i ≠ .wrst Words.zero := by
  obtain rfl : (s.setWords (wordsAfter i Words.zero)).respond .ok 0 = t := by
    simpa [exec_construct hi] using h
  exact (nonZero_iff_of_gen rfl).trans (wordsAfter_eq_zero_iff i (by simp [hi])).not

/-- From a state that is not all zero, only WRST of four zero words reaches zero. -/
theorem exec_nonZero_iff {i : Instr} {s t : State} (hs : NonZero s) (h : exec i s = .next t) :
    NonZero t ↔ i ≠ .wrst Words.zero := by
  rcases exec_cases i s with ⟨hg, hi, he⟩ | ⟨-, hi, -⟩ | ⟨w, hg, he⟩
  · obtain rfl : s.raiseUnseeded = t := by simpa [he] using h
    have hne : i ≠ .wrst Words.zero := by
      rintro rfl
      cases hi
    exact iff_of_true (nonZero_of_unseeded hg) hne
  · exact exec_construct_nonZero_iff hi h
  · obtain rfl : (s.setWords (wordsAfter i w)).respond .ok (dataAfter i w) = t := by
      simpa [he] using h
    have hw : w ≠ Words.zero := (nonZero_iff_of_gen hg).mp hs
    exact (nonZero_iff_of_gen rfl).trans (wordsAfter_eq_zero_iff i fun _ => hw).not

/-! ### The obligations of the family -/

/-- Settles O47: the two seedings are constructions other than WRST; T and both jumps, as powers of
T, have a trivial kernel, and the other instructions do not write S. -/
theorem onlyZeroWriteReachesZero : Obligations.OnlyZeroWriteReachesZero :=
  ⟨transition_zero,
    fun _ _ _ h => (exec_construct_nonZero_iff rfl h).mpr nofun,
    fun _ _ _ h => (exec_construct_nonZero_iff rfl h).mpr nofun,
    fun _ _ _ hs h => exec_nonZero_iff hs h⟩

/-- Settles O14, by what one edge does to SEEDED. -/
theorem seededSetOnlyByConstruction : Obligations.SeededSetOnlyByConstruction := by
  refine ⟨State.not_seeded_iff, fun s t h =>
    ⟨step_seeded_of_rst h, fun hr hs => ?_, fun hr hs => ?_⟩⟩
  · exact (step_seeded_iff h hr).mpr (.inl hs)
  · simpa only [hs, Bool.false_eq_true, false_or, needsState_eq_false_iff]
      using step_seeded_iff h hr

/-- Settles O1: the reset state read off field by field, and `exec_unseeded` for the commands that
read S. -/
theorem resetLeavesNoValue : Obligations.ResetLeavesNoValue :=
  ⟨rfl, rfl, rfl, rfl, rfl, rfl, nofun,
    fun s hs _ hi => exec_unseeded hi (s.not_seeded_iff.mp hs)⟩

end Sys2Proof.Machine
end

