-- ==== Sys2Proof/Proofs/Memory.lean ====
section
/-!
Byte order and separate blocks, family 20_memory: how seed bytes lie in the state words (R42), and
that a command sent to one block leaves every other block as it was (R52).
-/

namespace Sys2Proof.Machine

/-! ### Seed bytes in the state words (R42) -/

/-- Packing the words assembled from seed bytes gives the bytes back: the assembly moves no bit. -/
@[simp] theorem dataOf_seedWords (b : Data) : dataOf (seedWords b) = b := by
  rw [seedWords_eq_wordsOf, dataOf_wordsOf]

/-- Byte m of word i is byte 4i + m of the field. -/
theorem extractLsb'_wordLane (d : Data) (i : Nat) {m : Nat} (hm : m < 4) :
    (wordLane d i).extractLsb' (8 * m) 8 = byteLane d (4 * i + m) := by
  refine BitVec.eq_of_getLsbD_eq fun j hj => ?_
  have hbit : 32 * i + (8 * m + j) = 8 * (4 * i + m) + j := by omega
  rw [BitVec.getLsbD_extractLsb', getLsbD_wordLane _ _ _ (by omega), getLsbD_byteLane _ _ _ hj,
    hbit]
  simp [hj]

/-! ### One command among several blocks (R52) -/

/-- The replaced block is found with its new state. -/
theorem Blocks.find_put_same {n : BlockName} {s : State} {bs : Blocks}
    (h : Blocks.find n bs = some s) (t : State) : Blocks.find n (Blocks.put n t bs) = some t := by
  simp [Blocks.find_put, h]

/-- A block under another name is found as before. -/
theorem Blocks.find_put_of_ne {n m : BlockName} (h : m ≠ n) (t : State) (bs : Blocks) :
    Blocks.find m (Blocks.put n t bs) = Blocks.find m bs := by
  simp [Blocks.find_put, h]

/-- A command issued to the block `n` is answered exactly by that block alone, and the system then
differs in that block's state only. -/
theorem Blocks.issue_eq_some_iff {n : BlockName} {c : Command} {bs cs : Blocks} {r : Response} :
    Blocks.issue n c bs = some (r, cs) ↔ ∃ s t, Blocks.find n bs = some s ∧
      Machine.issue c s = some (r, t) ∧ cs = Blocks.put n t bs := by
  cases hf : Blocks.find n bs with
  | none => simp [Blocks.issue, hf]
  | some s => simp [Blocks.issue, hf, eq_comm]

/-! ### The obligations of the family -/

/-- Settles O20: the assembled words packed again are the seed bytes themselves, so that byte k mod 4
of word k div 4 is byte k. -/
theorem seedBytesAreLittleEndian : Obligations.SeedBytesAreLittleEndian := by
  refine ⟨fun b k _ => ?_, fun w => Words.mk.inj (wordsOf_dataOf w), by decide⟩
  rw [dataOf_seedWords, extractLsb'_wordLane b (k / 4) (Nat.mod_lt k (by decide)), Nat.div_add_mod]

/-- Settles O51: a command to one block is its own answer and one `put`. -/
theorem blocksShareNoState : Obligations.BlocksShareNoState := by
  intro n m c bs cs r h
  obtain ⟨s, t, hfind, hissue, rfl⟩ := Blocks.issue_eq_some_iff.mp h
  exact ⟨fun hmn => Blocks.find_put_of_ne hmn t bs,
    s, t, hfind, hissue, Blocks.find_put_same hfind t⟩

end Sys2Proof.Machine
end

/-!
Commands and responses on the ports, family 30_encoding: which commands the decoder accepts (R67),
when the response port changes (R69), and what lies in the response data (R70).
-/

namespace Sys2Proof

/-! ### The must-be-zero bits of a format (R62, R67) -/

/-- Format N's must-be-zero bits are all of `cmd_data`. -/
theorem Format.none_mustBeZero_iff (d : Data) : Format.none.mustBeZero &&& d = 0 ↔ d = 0 := by
  have hmask : Format.none.mustBeZero = BitVec.allOnes 128 := rfl
  rw [hmask, BitVec.allOnes_and]

/-- Formats B and W have no must-be-zero bits. -/
theorem Format.mustBeZero_of_free {f : Format} (h : f = .bytes ∨ f = .words) (d : Data) :
    f.mustBeZero &&& d = 0 := by
  rcases h with rfl | rfl <;> exact BitVec.zero_and

/-- Format Q's must-be-zero bits are the 64 high ones. -/
theorem Format.quad_mustBeZero_iff (d : Data) :
    Format.quad.mustBeZero &&& d = 0 ↔ d.extractLsb' 64 64 = 0 := by
  have hmask : Format.quad.mustBeZero = BitVec.allOnes 64 ++ (0 : Quad) := rfl
  have hhalves : d = d.extractLsb' 64 64 ++ d.extractLsb' 0 64 :=
    (BitVec.extractLsb'_append_extractLsb' (w := 64) (len := 64)).symm
  have hzero : (0 : Data) = (0 : Quad) ++ (0 : Quad) := rfl
  have hand : Format.quad.mustBeZero &&& d = d.extractLsb' 64 64 ++ (0 : Quad) := by
    conv_lhs => rw [hmask, hhalves, BitVec.and_append, BitVec.allOnes_and]
    exact congrArg _ BitVec.zero_and
  rw [hand, hzero, BitVec.append_left_inj]

/-! ### The opcode map (R66) -/

/-- The rows of the opcode map by format; the other values of OP are reserved (R68). -/
theorem opFormat_cases (op : BitVec 4) :
    ((op.toNat = 1 ∨ op.toNat = 2 ∨ op.toNat = 3 ∨ op.toNat = 4 ∨ op.toNat = 7) ∧
        opFormat op = some .none) ∨
      (op.toNat = 5 ∧ opFormat op = some .bytes) ∨
      (op.toNat = 6 ∧ opFormat op = some .quad) ∨
      ((op.toNat = 8 ∨ op.toNat = 9) ∧ opFormat op = some .words) ∨
      ((op.toNat = 0 ∨ 0xA ≤ op.toNat) ∧ opFormat op = none) := by
  revert op
  decide

/-- OP is listed and every must-be-zero bit of its format is zero: R67's clauses on OP and on
`cmd_data`. -/
def legalData (op : BitVec 4) (d : Data) : Prop :=
  ∃ f, opFormat op = some f ∧ f.mustBeZero &&& d = 0

/-- With OP listed, its format decides. -/
theorem legalData_iff_of_some {op : BitVec 4} {f : Format} (h : opFormat op = some f) (d : Data) :
    legalData op d ↔ f.mustBeZero &&& d = 0 := by
  simp [legalData, h]

theorem not_legalData_of_none {op : BitVec 4} (h : opFormat op = none) (d : Data) :
    ¬ legalData op d := by
  simp [legalData, h]

/-- R67: RSV is 0000, and OP and `cmd_data` are as they must be. -/
theorem Command.legal_iff (c : Command) :
    c.legal = true ↔ c.op.extractLsb' 4 4 = 0 ∧ legalData (c.op.extractLsb' 0 4) c.data := by
  cases h : opFormat (c.op.extractLsb' 0 4) <;> simp [Command.legal, legalData, h]

/-- R67's clauses on OP and `cmd_data`, opcode by opcode. -/
theorem legalData_iff (op : BitVec 4) (d : Data) :
    legalData op d ↔ 0x1 ≤ op.toNat ∧ op.toNat ≤ 0x9 ∧
      ((op.toNat = 1 ∨ op.toNat = 2 ∨ op.toNat = 3 ∨ op.toNat = 4 ∨ op.toNat = 7) → d = 0) ∧
      (op.toNat = 6 → d.extractLsb' 64 64 = 0) := by
  rcases opFormat_cases op with ⟨hop, hf⟩ | ⟨hop, hf⟩ | ⟨hop, hf⟩ | ⟨hop, hf⟩ | ⟨hop, hf⟩
  · rw [legalData_iff_of_some hf, Format.none_mustBeZero_iff]
    exact ⟨fun hd => ⟨by omega, by omega, fun _ => hd, by omega⟩, fun ⟨_, _, hd, _⟩ => hd hop⟩
  · rw [legalData_iff_of_some hf]
    simp [hop, Format.mustBeZero_of_free (.inl rfl)]
  · rw [legalData_iff_of_some hf, Format.quad_mustBeZero_iff]
    simp [hop]
  · rw [legalData_iff_of_some hf]
    rcases hop with hop | hop <;> simp [hop, Format.mustBeZero_of_free (.inr rfl)]
  · exact iff_of_false (not_legalData_of_none hf d) fun ⟨h1, h9, _⟩ => by omega

/-! ### What the decoder accepts (R67) -/

theorem decodeNone_ok_iff (i : Instr) (d : Data) : (∃ j, decodeNone i d = .ok j) ↔ d = 0 := by
  by_cases hd : d = 0
  · exact iff_of_true ⟨i, by rw [hd, decodeNone_zero]⟩ hd
  · exact iff_of_false (by simp [decodeNone_nonzero i hd]) hd

theorem decodeQuad_ok_iff (f : Quad → Instr) (d : Data) :
    (∃ j, decodeQuad f d = .ok j) ↔ d.extractLsb' 64 64 = 0 := by
  by_cases hd : d.extractLsb' 64 64 = 0
  · exact iff_of_true ⟨_, decodeQuad_low f hd⟩ hd
  · exact iff_of_false (by simp [decodeQuad_high f hd]) hd

theorem decodeOp_reserved {op : Nat} (h : op = 0 ∨ 0xA ≤ op) (d : Data) :
    decodeOp op d = .error .reservedOp := by
  unfold decodeOp
  split <;> first | rfl | omega

/-- The decoder's row of OP reads exactly the data that R67 allows with that OP. -/
theorem decodeOp_ok_iff (op : BitVec 4) (d : Data) :
    (∃ i, decodeOp op.toNat d = .ok i) ↔ legalData op d := by
  rcases opFormat_cases op with ⟨hop, hf⟩ | ⟨hop, hf⟩ | ⟨hop, hf⟩ | ⟨hop, hf⟩ | ⟨hop, hf⟩
  · rw [legalData_iff_of_some hf, Format.none_mustBeZero_iff]
    rcases hop with hop | hop | hop | hop | hop <;> rw [hop] <;> exact decodeNone_ok_iff _ d
  · rw [legalData_iff_of_some hf, hop]
    exact iff_of_true ⟨_, rfl⟩ (Format.mustBeZero_of_free (.inl rfl) d)
  · rw [legalData_iff_of_some hf, Format.quad_mustBeZero_iff, hop]
    exact decodeQuad_ok_iff _ d
  · rw [legalData_iff_of_some hf]
    rcases hop with hop | hop <;> rw [hop] <;>
      exact iff_of_true ⟨_, rfl⟩ (Format.mustBeZero_of_free (.inr rfl) d)
  · simp [decodeOp_reserved hop, not_legalData_of_none hf]

/-- The decoder and the check written from R67 accept the same commands. -/
theorem decode_ok_iff_legal (c : Command) : (∃ i, decode c = .ok i) ↔ c.legal = true := by
  rw [Command.legal_iff]
  by_cases hrsv : c.op.extractLsb' 4 4 = 0
  · rw [decode_of_op hrsv rfl, decodeOp_ok_iff]
    exact (and_iff_right hrsv).symm
  · exact iff_of_false (by simp [decode_of_rsv hrsv]) fun ⟨h, _⟩ => hrsv h

/-- A command that is not legal is rejected, for one of R67's reasons. -/
theorem decode_error_of_not_legal {c : Command} (h : c.legal = false) :
    ∃ e, decode c = .error e := by
  cases hd : decode c with
  | error e => exact ⟨e, rfl⟩
  | ok i => simp [(decode_ok_iff_legal c).mp ⟨i, hd⟩] at h

namespace Machine

/-- A command that is not legal raises ILLEGAL (R161). -/
theorem complete_of_not_legal {c : Command} (h : c.legal = false) (s : State) :
    complete c s = .next s.raiseIllegal := by
  obtain ⟨e, he⟩ := decode_error_of_not_legal h
  exact complete_error he s

/-! ### Lanes of the response data (R70) -/

theorem zextWord_eq_append (r : Word) : zextWord r = (0 : BitVec 96) ++ r :=
  BitVec.setWidth_eq_append (by decide)

theorem zextWord_low (r : Word) : (zextWord r).extractLsb' 0 32 = r := by
  rw [zextWord_eq_append, BitVec.extractLsb'_append_eq_right]

theorem zextWord_high (r : Word) : (zextWord r).extractLsb' 32 96 = 0 := by
  rw [zextWord_eq_append, BitVec.extractLsb'_append_eq_left]

theorem zextBit_getLsbD_zero (e : Bool) : (zextBit e).getLsbD 0 = e := by
  cases e <;> rfl

theorem zextBit_high (e : Bool) : (zextBit e).extractLsb' 1 127 = 0 := by
  cases e <;> decide

/-- Lane i of the 128-bit view is word i (R21, R64). -/
theorem wordLane_dataOf (w : Words) : wordLane (dataOf w) 0 = w.w0 ∧ wordLane (dataOf w) 1 = w.w1 ∧
    wordLane (dataOf w) 2 = w.w2 ∧ wordLane (dataOf w) 3 = w.w3 :=
  Words.mk.inj (wordsOf_dataOf w)

theorem rotl32_eq_rotateLeft (a : Word) {k : Nat} (h : k < 32) : rotl32 a k = a.rotateLeft k :=
  (BitVec.rotateLeft_eq_rotateLeftAux_of_lt h).symm

/-- The StarStar extractor (R83) with the library's rotation. -/
theorem extractStarStar_eq (w : Words) :
    extractStarStar w = (w.w1 * 5).rotateLeft 7 * 9 := by
  rw [extractStarStar, rotl32_eq_rotateLeft _ (by decide)]

/-- EQST's comparison word by word is equality of the tuples (R142). -/
theorem wordwise_beq_iff (w v : Words) :
    (w.w0 == v.w0 && w.w1 == v.w1 && w.w2 == v.w2 && w.w3 == v.w3) = true ↔ w = v := by
  cases w
  cases v
  simp [and_assoc]

/-! ### The response of an instruction (R70, R162) -/

/-- Only the commands that read S answer with data. -/
theorem dataAfter_construct {i : Instr} (hi : needsState i = false) (w : Words) :
    dataAfter i w = 0 := by
  cases i <;> first | rfl | cases hi

/-- The response of an instruction is UNSEEDED with zero data, or OK with its data for words that
are those of S wherever S holds any. -/
theorem exec_rsp {i : Instr} {s t : State} {r : Response} (h : exec i s = .next t)
    (hr : t.rsp = some r) :
    r = ⟨.unseeded, 0⟩ ∨ ∃ w, r = ⟨.ok, dataAfter i w⟩ ∧ ∀ v, s.gen = .seeded v → w = v := by
  rcases exec_cases i s with ⟨-, -, he⟩ | ⟨hg, hi, he⟩ | ⟨w, hg, he⟩
  · obtain rfl : s.raiseUnseeded = t := by simpa [he] using h
    exact .inl (Option.some.inj hr).symm
  · obtain rfl : (s.setWords (wordsAfter i Words.zero)).respond .ok 0 = t := by simpa [he] using h
    refine .inr ⟨Words.zero, ?_, by simp [hg]⟩
    rw [dataAfter_construct hi]
    exact (Option.some.inj hr).symm
  · obtain rfl : (s.setWords (wordsAfter i w)).respond .ok (dataAfter i w) = t := by
      simpa [he] using h
    exact .inr ⟨w, (Option.some.inj hr).symm, by simp [hg]⟩

/-! ### The obligations of the family -/

/-- Settles O17: the decoder's rows and the formats of the opcode map agree value by value of OP, and
a command that the decoder rejects raises ILLEGAL. -/
theorem decodesExactlyTheLegal : Obligations.DecodesExactlyTheLegal := by
  refine ⟨fun c op hop => ?_, decode_ok_iff_legal, fun c s h => complete_of_not_legal h s⟩
  rw [c.legal_iff, legalData_iff, hop]

/-- Settles O6, by the cases of one edge: a completion drives a response, an acceptance takes it
down, and waiting and idling leave it. -/
theorem responseHeldUntilNextAcceptance : Obligations.ResponseHeldUntilNextAcceptance := by
  intro s t h hr
  rcases step_cases s with ⟨hr', -⟩ | ⟨-, ⟨c, hp, he⟩ | ⟨c, n, hp, he⟩ | ⟨hp, ⟨hv, he⟩ | ⟨hv, he⟩⟩⟩
  · simp [hr] at hr'
  · have hc : complete c s.dropPins = .next t := he.symm.trans h
    obtain ⟨t', r, hc', hrsp, -⟩ := complete_answers c s.dropPins
    obtain rfl : t' = t := by simpa [hc'] using hc
    refine ⟨fun c' hp' => ?_, fun hn => absurd hp (hn c 0), fun hn => absurd hp (hn c)⟩
    obtain rfl : c = c' := by simpa [hp] using hp'
    exact ⟨hc, r, hrsp⟩
  · obtain rfl : s.dropPins.wait c n = t := by simpa [he] using h
    simp [hp]
  · obtain rfl : s.dropPins.accept s.pins.command _ = t := by simpa [he] using h
    rcases hp with hp | hp <;> simp [hp, hv]
  · obtain rfl : s.dropPins.idleEdge = t := by simpa [he] using h
    rcases hp with hp | hp <;> simp [hp, hv]

/-- Settles O34, by the response an instruction gives and the lanes of its data. -/
theorem responseDataLayout : Obligations.ResponseDataLayout := by
  intro i s t r h hr
  rcases exec_rsp h hr with rfl | ⟨w, rfl, hw⟩
  · simp
  · refine ⟨fun hne => absurd rfl hne, fun _ hi => ?_, ?_, ?_, ?_⟩
    · rcases hi with rfl | rfl
      · exact ⟨zextWord_high _, fun v hv => hw v hv ▸ zextWord_low _⟩
      · exact ⟨zextWord_high _, fun v hv =>
          hw v hv ▸ (zextWord_low _).trans (extractStarStar_eq w)⟩
    · rintro - rfl v hv
      obtain rfl := hw v hv
      exact wordLane_dataOf w
    · rintro - u rfl
      refine ⟨zextBit_high _, fun v hv => ?_⟩
      obtain rfl := hw v hv
      exact (Bool.eq_iff_iff.mp (zextBit_getLsbD_zero _)).trans (wordwise_beq_iff w u)
    · rintro - (rfl | rfl | ⟨b, rfl⟩ | ⟨v, rfl⟩ | ⟨v, rfl⟩) <;> rfl

end Machine

end Sys2Proof

/-!
The produce-next commands, family 40_step: what NEXTP and NEXTSS do with a seeded and an unseeded
state, and when they are illegal (R85, R86).
-/

namespace Sys2Proof.Machine

/-! ### Completion of a command of format N (R62, R67) -/

/-- A command whose row of the opcode map is `i` with format N runs `i`, and raises ILLEGAL when any
bit of its data is set. -/
theorem complete_formatN {op : Byte} {i : Instr} (hrow : ∀ d, decode ⟨op, d⟩ = decodeNone i d)
    (d : Data) (s : State) :
    complete ⟨op, d⟩ s = if d = 0 then exec i s else .next s.raiseIllegal := by
  by_cases hd : d = 0
  · rw [if_pos hd, complete_ok (by rw [hrow, hd, decodeNone_zero])]
  · rw [if_neg hd, complete_error (by rw [hrow, decodeNone_nonzero i hd])]

/-- The opcode map's row of NEXTP (R66). -/
theorem decode_nextp (d : Data) : decode ⟨0x01, d⟩ = decodeNone .nextp d :=
  decode_of_op (k := 0x1) (by decide) (by decide) d

/-- The opcode map's row of NEXTSS (R66). -/
theorem decode_nextss (d : Data) : decode ⟨0x02, d⟩ = decodeNone .nextss d :=
  decode_of_op (k := 0x2) (by decide) (by decide) d

/-! ### The obligations of the family -/

/-- Settles O22, by the three outcomes of NEXTP: a seeded state is stepped and its Plus word
returned, an unseeded one answers UNSEEDED, and stray data is ILLEGAL. -/
theorem nextpResult : Obligations.NextpResult :=
  ⟨fun _ _ hseeded => exec_seeded hseeded, fun _ hunseeded => exec_unseeded rfl hunseeded,
    complete_formatN decode_nextp⟩

/-- Settles O23, by the three outcomes of NEXTSS; the model's rotation in the StarStar word is the
library's. -/
theorem nextssResult : Obligations.NextssResult := by
  refine ⟨fun s w hseeded => ?_, fun _ hunseeded => exec_unseeded rfl hunseeded,
    complete_formatN decode_nextss⟩
  rw [exec_seeded hseeded, ← extractStarStar_eq]
  rfl

end Sys2Proof.Machine

/-!
Seeding from sixteen bytes, family 41_seeding: SEEDB's result in every state and its one row of the
opcode map (R100), and the substitute for a seed of sixteen zero bytes (R101).
-/

namespace Sys2Proof.Machine

/-! ### The zero-seed substitution (R101) -/

@[simp] theorem substituteZero_zero : substituteZero 0 = Config.zeroSeedSubst := if_pos rfl

@[simp] theorem substituteZero_of_ne_zero {b : Data} (h : b ≠ 0) : substituteZero b = b := if_neg h

/-! ### SEEDB (R100) -/

/-- SEEDB is a construction: its next state does not depend on S or SEEDED. -/
theorem exec_seedb (b : Data) (s : State) : exec (.seedb b) s =
    .next ((s.setWords (seedWords (substituteZero b))).respond .ok 0) :=
  exec_construct rfl s

/-- A seed of sixteen zero bytes does what the substitute does, which is not substituted again. -/
theorem exec_seedb_zero (s : State) :
    exec (.seedb 0) s = exec (.seedb Config.zeroSeedSubst) s := by
  rw [exec_seedb, exec_seedb, substituteZero_zero, substituteZero_of_ne_zero zeroSeedSubst_ne_zero]

/-- The opcode map's row of SEEDB (R66): every `cmd_data` is an operand. -/
theorem decode_seedb (d : Data) : decode ⟨0x05, d⟩ = .ok (.seedb d) :=
  decode_of_op (k := 0x5) (by decide) (by decide) d

/-! ### The obligations of the family -/

/-- Settles O26: SEEDB is one construction for every state, and its row of the opcode map rejects no
data. -/
theorem seedbResult : Obligations.SeedbResult :=
  ⟨exec_seedb, fun d => complete_ok (decode_seedb d)⟩

/-- Settles O45: the substitute is not all zero, so four words assembled from it are not either, and
SEEDB of zero assembles exactly these words. -/
theorem zeroSeedIsSubstituted : Obligations.ZeroSeedIsSubstituted := by
  refine ⟨zeroSeedSubst_ne_zero, seedWords_ne_zero zeroSeedSubst_ne_zero, fun s =>
    ⟨exec_seedb_zero s, ?_⟩⟩
  rw [exec_seedb, substituteZero_zero]
  rfl

end Sys2Proof.Machine

/-!
The jump commands, family 42_jump: what JUMP and LJUMP do with a seeded and an unseeded state, and
when they are illegal (R122, R123).
-/

namespace Sys2Proof.Machine

/-! ### The jumps as powers of T (R122, R123) -/

/-- JUMP of a seeded state advances it by 2^64 transitions. -/
theorem exec_jump_eq_transitionN {s : State} {w : Words} (h : s.gen = .seeded w) :
    exec .jump s = .next ((s.setWords (transitionN (2 ^ 64) w)).respond .ok 0) := by
  rw [exec_seeded h, wordsAfter, dataAfter, jumpPoly_jumpConst]

/-- LJUMP of a seeded state advances it by 2^96 transitions. -/
theorem exec_ljump_eq_transitionN {s : State} {w : Words} (h : s.gen = .seeded w) :
    exec .ljump s = .next ((s.setWords (transitionN (2 ^ 96) w)).respond .ok 0) := by
  rw [exec_seeded h, wordsAfter, dataAfter, jumpPoly_ljumpConst]

/-- The opcode map's row of JUMP (R66). -/
theorem decode_jump (d : Data) : decode ⟨0x03, d⟩ = decodeNone .jump d :=
  decode_of_op (k := 0x3) (by decide) (by decide) d

/-- The opcode map's row of LJUMP (R66). -/
theorem decode_ljump (d : Data) : decode ⟨0x04, d⟩ = decodeNone .ljump d :=
  decode_of_op (k := 0x4) (by decide) (by decide) d

/-! ### The obligations of the family -/

/-- Settles O24, by the three outcomes of JUMP: a seeded state gets the engine's words, which are
2^64 transitions on, an unseeded one answers UNSEEDED, and stray data is ILLEGAL. -/
theorem jumpResult : Obligations.JumpResult :=
  ⟨fun _ _ hseeded => ⟨exec_seeded hseeded, exec_jump_eq_transitionN hseeded⟩,
    fun _ hunseeded => exec_unseeded rfl hunseeded, complete_formatN decode_jump⟩

/-- Settles O25, by the three outcomes of LJUMP, whose engine's words are 2^96 transitions on. -/
theorem ljumpResult : Obligations.LjumpResult :=
  ⟨fun _ _ hseeded => ⟨exec_seeded hseeded, exec_ljump_eq_transitionN hseeded⟩,
    fun _ hunseeded => exec_unseeded rfl hunseeded, complete_formatN decode_ljump⟩

end Sys2Proof.Machine

/-!
State read, write and compare, family 43_state_access: what RDST, WRST and EQST answer and leave in
S (R140, R141, R142).
-/

namespace Sys2Proof.Machine

/-! ### RDST (R140) -/

/-- RDST of a seeded state answers the words packed into the response and leaves S alone. -/
theorem exec_rdst_seeded {s : State} {w : Words} (h : s.gen = .seeded w) :
    exec .rdst s = .next (s.respond .ok (dataOf w)) := by
  rw [exec_seeded h, wordsAfter, dataAfter, State.setWords_self h]

/-- The opcode map's row of RDST (R66). -/
theorem decode_rdst (d : Data) : decode ⟨0x07, d⟩ = decodeNone .rdst d :=
  decode_of_op (k := 0x7) (by decide) (by decide) d

/-! ### WRST (R141) -/

/-- WRST is a construction: it leaves its operand in S whatever S and SEEDED were. -/
theorem exec_wrst (w : Words) (s : State) :
    exec (.wrst w) s = .next ((s.setWords w).respond .ok 0) :=
  exec_construct rfl s

/-- The opcode map's row of WRST (R66): every `cmd_data` is an operand. -/
theorem decode_wrst (d : Data) : decode ⟨0x08, d⟩ = .ok (.wrst (wordsOf d)) :=
  decode_of_op (k := 0x8) (by decide) (by decide) d

/-- WRST of words packed as RDST packs them leaves exactly these words in S. -/
theorem complete_wrst_dataOf (w : Words) (s : State) :
    complete ⟨0x08, dataOf w⟩ s = .next ((s.setWords w).respond .ok 0) := by
  rw [complete_ok (decode_wrst _), wordsOf_dataOf, exec_wrst]

/-! ### EQST (R142) -/

/-- EQST of a seeded state answers whether the operand is the whole of S, and leaves S alone. -/
theorem exec_eqst_seeded {s : State} {v : Words} (h : s.gen = .seeded v) (w : Words) :
    exec (.eqst w) s = .next (s.respond .ok (if v = w then 1 else 0)) := by
  have hbit : dataAfter (.eqst w) v = if v = w then 1 else 0 :=
    if_congr (wordwise_beq_iff v w) rfl rfl
  rw [exec_seeded h, wordsAfter, hbit, State.setWords_self h]

/-- The opcode map's row of EQST (R66): every `cmd_data` is an operand. -/
theorem decode_eqst (d : Data) : decode ⟨0x09, d⟩ = .ok (.eqst (wordsOf d)) :=
  decode_of_op (k := 0x9) (by decide) (by decide) d

/-! ### The obligations of the family -/

/-- Settles O28, by the three outcomes of RDST: a seeded state is packed lane by lane, an unseeded
one answers UNSEEDED, and stray data is ILLEGAL. -/
theorem rdstResult : Obligations.RdstResult :=
  ⟨fun _ w hseeded => ⟨dataOf w, exec_rdst_seeded hseeded, wordLane_dataOf w⟩,
    fun _ hunseeded => exec_unseeded rfl hunseeded, complete_formatN decode_rdst⟩

/-- Settles O29: WRST is one construction for every state, its row of the opcode map rejects no
data, and unpacking undoes RDST's packing. -/
theorem wrstResult : Obligations.WrstResult := by
  refine ⟨exec_wrst, fun d => complete_ok (decode_wrst d), fun s t u d hs hread hdata hwrite => ?_⟩
  obtain ⟨w, hw⟩ := s.seeded_iff.mp hs
  obtain rfl : s.respond .ok (dataOf w) = t := by simpa [exec_rdst_seeded hw] using hread
  obtain rfl : dataOf w = d := by simpa using hdata
  obtain rfl := Host.Outcome.next.inj ((complete_wrst_dataOf w _).symm.trans hwrite)
  exact hw.symm

/-- Settles O30, by the outcomes of EQST: a seeded state is compared as a whole, an unseeded one
answers UNSEEDED, and no data is ILLEGAL. -/
theorem eqstResult : Obligations.EqstResult :=
  ⟨fun _ _ w hseeded => exec_eqst_seeded hseeded w,
    fun _ _ hunseeded => exec_unseeded rfl hunseeded, fun d => complete_ok (decode_eqst d)⟩

end Sys2Proof.Machine

/-!
Errors as response statuses, family 60_exceptions: when each status is answered (R160, R161, R162),
in which order the checks run, and that an error changes nothing (R164).
-/

namespace Sys2Proof

/-- R161's causes of ILLEGAL, each the failure of one clause of R67. -/
theorem Command.not_legal_iff (c : Command) {op : Nat} (hop : op = (c.op.extractLsb' 0 4).toNat) :
    c.legal = false ↔ c.op.extractLsb' 4 4 ≠ 0 ∨ op = 0 ∨ 0xA ≤ op ∨
      ((op = 1 ∨ op = 2 ∨ op = 3 ∨ op = 4 ∨ op = 7) ∧ c.data ≠ 0) ∨
      (op = 6 ∧ c.data.extractLsb' 64 64 ≠ 0) := by
  rw [← Bool.not_eq_true, c.legal_iff, legalData_iff, ← hop]
  simp only [not_and_or, Classical.not_imp, not_le, Nat.lt_one_iff]
  exact Iff.rfl

namespace Machine

/-! ### The response ports after an error -/

@[simp] theorem State.raiseIllegal_rspStatus (s : State) : s.raiseIllegal.rspStatus = some 1 := rfl

@[simp] theorem State.raiseIllegal_rspData (s : State) : s.raiseIllegal.rspData = some 0 := rfl

@[simp] theorem State.raiseUnseeded_rspStatus (s : State) :
    s.raiseUnseeded.rspStatus = some 2 := rfl

@[simp] theorem State.raiseUnseeded_rspData (s : State) : s.raiseUnseeded.rspData = some 0 := rfl

/-! ### The checks in their order (R164) -/

/-- The instructions that read S are R162's six. -/
theorem needsState_iff (i : Instr) : needsState i = true ↔
    i = .nextp ∨ i = .nextss ∨ i = .jump ∨ i = .ljump ∨ i = .rdst ∨ ∃ w, i = .eqst w := by
  cases i <;> simp [needsState]

/-- An instruction that does not read S, or finds SEEDED = 1, executes and answers OK. -/
theorem exec_ok {i : Instr} {s : State} (h : needsState i = false ∨ s.seeded = true) :
    ∃ w d, exec i s = .next ((s.setWords w).respond .ok d) := by
  rcases h with hi | hs
  · exact ⟨_, _, exec_construct hi s⟩
  · obtain ⟨w, hw⟩ := s.seeded_iff.mp hs
    exact ⟨_, _, exec_seeded hw⟩

/-- The check of SEEDED decides between UNSEEDED and OK. -/
theorem exec_check (i : Instr) (s : State) :
    (needsState i = true ∧ s.seeded = false ∧ exec i s = .next s.raiseUnseeded) ∨
      ((needsState i = false ∨ s.seeded = true) ∧
        ∃ w d, exec i s = .next ((s.setWords w).respond .ok d)) := by
  by_cases h : needsState i = false ∨ s.seeded = true
  · exact .inr ⟨h, exec_ok h⟩
  · obtain ⟨hi, hs⟩ : needsState i = true ∧ s.seeded = false := by simpa using h
    exact .inl ⟨hi, hs, exec_unseeded hi (s.not_seeded_iff.mp hs)⟩

/-- A legal command never answers ILLEGAL. -/
theorem complete_of_legal {c : Command} (h : c.legal = true) (s : State) :
    ∃ t, complete c s = .next t ∧ t.rspStatus ≠ some 1 := by
  obtain ⟨i, hd⟩ := (decode_ok_iff_legal c).mpr h
  rw [complete_ok hd]
  rcases exec_check i s with ⟨-, -, he⟩ | ⟨-, w, d, he⟩
  · exact ⟨_, he, by simp⟩
  · exact ⟨_, he, by simp [Status.code]⟩

/-! ### The obligations of the family -/

/-- Settles O18: R161's causes are those of `Command.legal` failing, and exactly then the completion
raises ILLEGAL. -/
theorem illegalCausesAndEffect : Obligations.IllegalCausesAndEffect := by
  intro c s op hop
  rw [← c.not_legal_iff hop, Bool.not_eq_false]
  exact ⟨fun h => complete_of_not_legal h s, fun h => complete_of_legal h s⟩

/-- Settles O31, by the OK outcome of `exec_ok`. -/
theorem seededCommandsReturnOk : Obligations.SeededCommandsReturnOk := by
  intro i s hs
  obtain ⟨w, d, he⟩ := exec_ok (i := i) (.inr hs)
  exact ⟨_, he, rfl⟩

/-- Settles O32, by the check of SEEDED: it fails for R162's six instructions only. -/
theorem unseededCauseAndEffect : Obligations.UnseededCauseAndEffect := by
  intro i s
  rw [← needsState_iff]
  rcases exec_check i s with ⟨hi, hs, he⟩ | ⟨hok, w, d, he⟩
  · exact ⟨_, he, iff_of_true rfl ⟨hs, hi⟩, fun _ => rfl⟩
  · have hstatus : ((s.setWords w).respond .ok d).rspStatus ≠ some 2 := by simp [Status.code]
    refine ⟨_, he, iff_of_false hstatus fun ⟨hs, hi⟩ => ?_, fun h => absurd h hstatus⟩
    simp [hs, hi] at hok

/-- Settles O33: legality is checked first, then SEEDED, and a command that fails neither check is
OK. -/
theorem oneStatusByPriority : Obligations.OneStatusByPriority := by
  intro c s
  cases hd : decode c with
  | error e => exact ⟨_, complete_error hd s, by simp⟩
  | ok i =>
    have hlegal : c.legal = true := (decode_ok_iff_legal c).mp ⟨i, hd⟩
    rw [complete_ok hd]
    rcases exec_check i s with ⟨hi, hs, he⟩ | ⟨hok, w, d, he⟩
    · exact ⟨_, he, by simp [hlegal, hi, hs]⟩
    · refine ⟨_, he, by simp [hlegal], ?_, fun _ _ _ => rfl, fun h => absurd rfl h⟩
      rintro j hj hi hs
      obtain rfl : i = j := Except.ok.inj hj
      simp [hs, hi] at hok

end Machine

end Sys2Proof

/-!
Reset and the port handshake, family 70_reset_and_hazards: what one edge does to a block that is
ready, busy or in reset (R180, R183), and the run of a command from its acceptance to its completion
(R184).
-/

namespace Sys2Proof.Machine

/-! ### The equations of one edge (R180, R183, R184) -/

/-- An edge with `rst` = 1 resets the block (R180). -/
theorem step_reset {s : State} (hr : s.pins.rst = true) : step s = .next s.dropPins.resetEdge := by
  simp [step, edge, hr]

/-- A ready block accepts the command that is offered (R183). -/
theorem step_accept {s : State} (hr : s.pins.rst = false) (hready : s.cmdReady = true)
    (hv : s.pins.cmdValid = true) :
    step s = .next (s.dropPins.accept s.pins.command (latency s.pins.command - 1)) := by
  rcases s.cmdReady_iff.mp hready with hp | ⟨hp, -⟩ <;> simp [step, edge, hr, hp, hv]

/-- A ready block to which nothing is offered is idle (R173, R180). -/
theorem step_idle {s : State} (hr : s.pins.rst = false) (hready : s.cmdReady = true)
    (hv : s.pins.cmdValid = false) : step s = .next s.dropPins.idleEdge := by
  rcases s.cmdReady_iff.mp hready with hp | ⟨hp, -⟩ <;> simp [step, edge, hr, hp, hv]

/-- A command with edges left waits (R184). -/
theorem step_wait {s : State} {c : Command} {n : Nat} (hr : s.pins.rst = false)
    (hp : s.phase = .busy c (n + 1)) : step s = .next (s.dropPins.wait c n) := by
  simp [step, edge, hr, hp]

/-- A command with no edge left completes (R184). -/
theorem step_complete {s : State} {c : Command} (hr : s.pins.rst = false)
    (hp : s.phase = .busy c 0) : step s = complete c s.dropPins := by
  simp [step, edge, hr, hp]

/-- While a command is in progress an edge reads no input but `rst` (R183). -/
theorem edge_congr_of_busy {s : State} {c : Command} {n : Nat} {p q : Pins}
    (hp : s.phase = .busy c n) (hr : p.rst = q.rst) : edge p s = edge q s := by
  cases n <;> simp [edge, hp, hr]

/-- A command in progress after an edge was in progress before it, or was accepted at it (R183). -/
theorem busy_of_step {s t : State} {c : Command} {n : Nat} (h : step s = .next t)
    (ht : t.phase = .busy c n) :
    s.pins.rst = false ∧ (s.phase = .busy c (n + 1) ∨
      (s.cmdReady = true ∧ s.pins.cmdValid = true ∧ c = s.pins.command)) := by
  rcases step_cases s with
    ⟨-, he⟩ | ⟨hr, ⟨c', -, he⟩ | ⟨c', m, hp, he⟩ | ⟨hp, ⟨hv, he⟩ | ⟨-, he⟩⟩⟩
  · obtain rfl : s.dropPins.resetEdge = t := by simpa [he] using h
    cases ht
  · obtain ⟨t', -, hc, -, hidle, -⟩ := complete_answers c' s.dropPins
    obtain rfl : t' = t := by simpa [he, hc] using h
    simp [hidle] at ht
  · obtain rfl : s.dropPins.wait c' m = t := by simpa [he] using h
    cases ht
    exact ⟨hr, .inl hp⟩
  · obtain rfl : s.dropPins.accept s.pins.command _ = t := by simpa [he] using h
    cases ht
    exact ⟨hr, .inr ⟨s.cmdReady_iff.mpr (hp.imp_right fun hp => ⟨hp, hr⟩), hv, rfl⟩⟩
  · obtain rfl : s.dropPins.idleEdge = t := by simpa [he] using h
    cases ht

/-! ### The ports in each phase -/

theorem State.cmdReady_of_idle {s : State} (h : s.phase = .idle) : s.cmdReady = true :=
  s.cmdReady_iff.mpr (.inl h)

theorem State.cmdReady_of_inReset {s : State} (h : s.phase = .inReset) :
    s.cmdReady = !s.pins.rst := by
  simp [State.cmdReady, h]

theorem State.cmdReady_of_busy {s : State} {c : Command} {n : Nat} (h : s.phase = .busy c n) :
    s.cmdReady = false := by
  simp [State.cmdReady, h]

/-- An idle edge changes nothing in a block that is idle already. -/
theorem State.idleEdge_self {s : State} (h : s.phase = .idle) : s.idleEdge = s := by
  cases s; cases h; rfl

theorem State.rspValid_eq_false_iff (s : State) : s.rspValid = false ↔ s.rsp = none := by
  simp [State.rspValid]

/-! ### Runs over several edges -/

/-- A run can be cut after any number of edges. -/
theorem run_add {s t : State} {j : Nat} (h : Host.Core.run core j s = .next t) (k : Nat) :
    Host.Core.run core (j + k) s = Host.Core.run core k t := by
  induction j generalizing s with
  | zero =>
    obtain rfl : s = t := Host.Outcome.next.inj h
    rw [Nat.zero_add]
  | succ j ih =>
    cases hs : step s with
    | next u =>
      rw [run_step hs] at h
      rw [Nat.add_right_comm, run_step hs, ih h]
    | fault r => cases r
    | refused r =>
      have hs' : core.step s = .refused r := hs
      simp [Host.Core.run, hs'] at h

/-- What holds of the pins at the next `k + 1` edges holds of those at the next edge, and of those
at the `k` edges after it; past the end of the list the pins are quiet. -/
theorem State.pins_of_forall_take {P : Pins → Prop} (quiet : P Pins.quiet) {s : State} {k : Nat}
    (h : ∀ p ∈ s.inputs.take (k + 1), P p) : P s.pins ∧ ∀ p ∈ s.inputs.tail.take k, P p := by
  unfold State.pins
  cases hi : s.inputs with
  | nil => simpa using quiet
  | cons p ps => simpa [hi] using h

/-- For `k` edges without reset, a command with at least `k` edges left only waits (R184). -/
theorem run_wait {s : State} {c : Command} {n k : Nat} (hp : s.phase = .busy c (n + k))
    (hrst : ∀ p ∈ s.inputs.take k, p.rst = false) :
    Host.Core.run core k s = .next { s with phase := .busy c n, inputs := s.inputs.drop k } := by
  induction k generalizing s with
  | zero => cases s; cases hp; rfl
  | succ k ih =>
    obtain ⟨hr, hrst'⟩ := State.pins_of_forall_take (P := fun p => p.rst = false) rfl hrst
    rw [run_step (step_wait hr hp), ih rfl hrst']
    simp [State.wait]

/-! ### From acceptance to completion (R184) -/

theorem latencyOf_pos (i : Instr) : 1 ≤ latencyOf i := by
  cases i <;> exact Nat.succ_pos _

theorem latency_pos (c : Command) : 1 ≤ latency c := by
  unfold latency
  split
  · exact latencyOf_pos _
  · exact Nat.succ_pos _

section
variable {s : State} {c : Command} {rest : List Pins} (hready : s.cmdReady = true)
  (hoffer : s.inputs = Pins.offer c :: rest)
include hready hoffer

/-- A ready block takes the command offered at the next edge. -/
theorem step_offer :
    step s = .next { s with phase := .busy c (latency c - 1), rsp := none, inputs := rest } := by
  have hpins : s.pins = Pins.offer c := by simp [State.pins, hoffer]
  rw [step_accept (by simp [hpins, Pins.offer]) hready (by simp [hpins, Pins.offer])]
  simp [State.accept, hpins, Pins.command, Pins.offer, hoffer]

variable (hrst : ∀ p ∈ rest.take (latency c), p.rst = false)
include hrst

/-- After the accepting edge and `k` more, with `k` below the latency, the command is in progress
and nothing else has changed. -/
theorem run_in_progress {k : Nat} (hk : k < latency c) :
    Host.Core.run core (k + 1) s = .next { s with
      phase := .busy c (latency c - 1 - k), rsp := none, inputs := rest.drop k } := by
  have hleft : latency c - 1 = latency c - 1 - k + k := by omega
  have hrst' : ∀ p ∈ rest.take k, p.rst = false := fun p hp =>
    hrst p (List.take_subset_take_left rest hk.le hp)
  rw [run_step (step_offer hready hoffer), run_wait (congrArg (Phase.busy c) hleft) hrst']

/-- The edge `latency c` cycles after the accepting one completes the command. -/
theorem run_latency {t : State}
    (hc : complete c { s with inputs := rest.drop (latency c) } = .next t) :
    Host.Core.run core (latency c + 1) s = .next t := by
  obtain ⟨n, hn⟩ : ∃ n, latency c = n + 1 := Nat.exists_eq_add_of_le' (latency_pos c)
  have hlast : ∀ p ∈ (rest.drop n).take 1, p.rst = false := fun p hp => by
    refine hrst p (List.mem_of_mem_drop (i := n) ?_)
    simpa [hn, List.drop_take] using hp
  have hr := (State.pins_of_forall_take (P := fun p => p.rst = false) rfl
    (s := { s with phase := .busy c 0, rsp := none, inputs := rest.drop n }) hlast).1
  have hbusy := run_in_progress hready hoffer hrst (k := n) (by omega)
  rw [hn, Nat.add_sub_cancel, Nat.sub_self] at hbusy
  rw [hn, run_add hbusy]
  refine run_one ?_
  rw [step_complete hr rfl, ← hc]
  exact complete_congr c rfl (by simp [hn])

end

/-! ### The obligations of the family -/

/-- Settles O4, by the equations of an edge; a command in progress comes from the one edge that
accepted it. -/
theorem acceptedExactlyWhenReady : Obligations.AcceptedExactlyWhenReady := by
  refine ⟨fun _ => step_accept,
    fun s c n hp => ⟨State.cmdReady_of_busy hp, fun p q rest hr => ?_⟩,
    fun _ _ _ _ => busy_of_step,
    fun _ _ _ hr => ⟨step_wait hr, step_complete hr⟩⟩
  exact edge_congr_of_busy (s := { s with inputs := rest }) hp hr

/-- Settles O5: `latency - 1` edges of waiting follow the accepting one, and the next completes. -/
theorem commandCompletesAfterItsLatency : Obligations.CommandCompletesAfterItsLatency := by
  refine ⟨latency_pos, fun s c rest hready hoffer hrst => ⟨fun k hk => ?_, ?_⟩,
    fun s hp hr hv => ?_, fun s h => ?_⟩
  · exact ⟨_, run_in_progress hready hoffer hrst hk, rfl, rfl, rfl⟩
  · obtain ⟨t, r, hc, hrsp, hidle, -⟩ :=
      complete_answers c { s with inputs := rest.drop (latency c) }
    exact ⟨t, r, run_latency hready hoffer hrst hc, hc, hrsp, State.cmdReady_of_idle hidle⟩
  · rw [step_idle hr (State.cmdReady_of_idle hp) hv, State.idleEdge_self (s := s.dropPins) hp]
    rfl
  · simp [State.rspStatus, State.rspData, s.rspValid_eq_false_iff.mp h]

/-- Settles O2: the state after a reset edge, and the idle edge from it. -/
theorem resetEdgeClearsTheBlock : Obligations.ResetEdgeClearsTheBlock := by
  intro s hr
  have hready : s.dropPins.resetEdge.cmdReady = !s.dropPins.resetEdge.pins.rst :=
    State.cmdReady_of_inReset rfl
  refine ⟨_, step_reset hr, rfl, rfl, nofun, fun h => by rw [hready, h]; rfl, rfl, rfl,
    fun h => by rw [hready, h]; rfl, fun h hv => ?_⟩
  exact ⟨_, step_idle h (by rw [hready, h]; rfl) hv, rfl, rfl, rfl, rfl⟩

end Sys2Proof.Machine

/-!
Every edge of the block, family other: the machine never stops (R160, R165, R189), what each edge
keeps of the port invariant and of the non-zero state (R69, R184, R188), and runs of a host that
stays quiet or issues one command after another (R173, R190).
-/

namespace Sys2Proof.Machine

/-! ### Every step goes on (R160, R165) -/

theorem exec_goesOn (i : Instr) (s : State) : GoesOn (exec i s) := by
  rcases exec_cases i s with ⟨-, -, he⟩ | ⟨-, -, he⟩ | ⟨w, -, he⟩ <;> exact ⟨_, he⟩

theorem complete_goesOn (c : Command) (s : State) : GoesOn (complete c s) := by
  obtain ⟨t, -, hc, -⟩ := complete_answers c s
  exact ⟨t, hc⟩

theorem step_goesOn (s : State) : GoesOn (step s) := by
  rcases step_cases s with ⟨-, he⟩ | ⟨-, ⟨c, -, he⟩ | ⟨c, n, -, he⟩ | ⟨-, ⟨-, he⟩ | ⟨-, he⟩⟩⟩
  · exact ⟨_, he⟩
  · rw [he]
    exact complete_goesOn c _
  · exact ⟨_, he⟩
  · exact ⟨_, he⟩
  · exact ⟨_, he⟩

/-! ### What holds after an edge -/

/-- A property holds after an edge if it holds after each thing an edge can do. -/
theorem step_induction {P : State → Prop} {s t : State} (h : step s = .next t)
    (reset : s.pins.rst = true → P s.dropPins.resetEdge)
    (completion : ∀ c, s.phase = .busy c 0 → complete c s.dropPins = .next t → P t)
    (wait : ∀ c n, s.phase = .busy c (n + 1) → P (s.dropPins.wait c n))
    (accept : P (s.dropPins.accept s.pins.command (latency s.pins.command - 1)))
    (idle : s.phase = .idle ∨ s.phase = .inReset → P s.dropPins.idleEdge) : P t := by
  rcases step_cases s with
    ⟨hr, he⟩ | ⟨-, ⟨c, hp, he⟩ | ⟨c, n, hp, he⟩ | ⟨hp, ⟨-, he⟩ | ⟨-, he⟩⟩⟩
  · exact Host.Outcome.next.inj (he.symm.trans h) ▸ reset hr
  · exact completion c hp (he.symm.trans h)
  · exact Host.Outcome.next.inj (he.symm.trans h) ▸ wait c n hp
  · exact Host.Outcome.next.inj (he.symm.trans h) ▸ accept
  · exact Host.Outcome.next.inj (he.symm.trans h) ▸ idle hp

/-- A completion leaves the host's coming inputs alone. -/
theorem complete_inputs {c : Command} {s t : State} (h : complete c s = .next t) :
    t.inputs = s.inputs := by
  obtain ⟨t', -, hc, -, -, hi⟩ := complete_answers c s
  exact Host.Outcome.next.inj (hc.symm.trans h) ▸ hi

/-- An edge takes the next pins off the list. -/
theorem step_inputs {s t : State} (h : step s = .next t) : t.inputs = s.inputs.tail :=
  step_induction (P := fun t => t.inputs = s.inputs.tail) h (fun _ => rfl)
    (fun _ _ hc => complete_inputs hc) (fun _ _ _ => rfl) rfl fun _ => rfl

/-! ### The port invariant after each named operation -/

theorem portInv_resetEdge (s : State) : PortInv s.resetEdge where
  reset_clears _ := ⟨rfl, rfl⟩
  busy_silent _ _ _ := rfl
  fresh_unseeded h := nomatch h
  error_data_zero _ h := nomatch h
  unseeded_status _ h := nomatch h

/-- A command in progress keeps the invariant as long as the response port is silent. -/
theorem portInv_of_busy {s : State} {c : Command} {n : Nat} (hp : s.phase = .busy c n)
    (hr : s.rsp = none) : PortInv s where
  reset_clears h := by simp [hp] at h
  busy_silent _ _ _ := hr
  fresh_unseeded h := by simp [hp] at h
  error_data_zero r h := by simp [hr] at h
  unseeded_status r h := by simp [hr] at h

/-- A response keeps the invariant if its data is zero on an error (R70) and UNSEEDED is answered
only for want of a state (R162). -/
theorem portInv_respond {s : State} {st : Status} {d : Data} (hdata : st ≠ .ok → d = 0)
    (hunseeded : st = .unseeded → s.gen = .unseeded) : PortInv (s.respond st d) where
  reset_clears h := nomatch h
  busy_silent _ _ h := nomatch h
  fresh_unseeded _ h := nomatch h
  error_data_zero r h := by obtain rfl := Option.some.inj h; exact hdata
  unseeded_status r h := by obtain rfl := Option.some.inj h; exact hunseeded

/-- A completion ends in a response that meets the invariant, whatever came before. -/
theorem portInv_of_complete {c : Command} {s t : State} (h : complete c s = .next t) :
    PortInv t := by
  rcases complete_cases c s with he | ⟨hg, he⟩ | ⟨i, w, d, -, he⟩
  · obtain rfl : s.raiseIllegal = t := by simpa [he] using h
    exact portInv_respond (fun _ => rfl) nofun
  · obtain rfl : s.raiseUnseeded = t := by simpa [he] using h
    exact portInv_respond (fun _ => rfl) fun _ => hg
  · obtain rfl : (s.setWords w).respond .ok d = t := by simpa [he] using h
    exact portInv_respond (fun hne => absurd rfl hne) nofun

/-- A block without a command in progress that goes idle keeps the invariant: one that comes out of
reset is unseeded. -/
theorem portInv_idleEdge {s : State} (hs : PortInv s) (hp : s.phase = .idle ∨ s.phase = .inReset) :
    PortInv s.idleEdge where
  reset_clears h := nomatch h
  busy_silent _ _ h := nomatch h
  fresh_unseeded _ hr :=
    hp.elim (fun hp => hs.fresh_unseeded hp hr) fun hp => (hs.reset_clears hp).1
  error_data_zero := hs.error_data_zero
  unseeded_status := hs.unseeded_status

/-- The invariant says nothing of the pins to come. -/
theorem portInv_dropPins {s : State} (hs : PortInv s) : PortInv s.dropPins :=
  ⟨hs.reset_clears, hs.busy_silent, hs.fresh_unseeded, hs.error_data_zero, hs.unseeded_status⟩

/-! ### The non-zero state under the host's duty (R188) -/

/-- A completion of a command other than WRST of four zero words keeps the state non-zero. -/
theorem complete_nonZero {c : Command} {s t : State} (hs : NonZero s)
    (hc : decode c ≠ .ok (.wrst Words.zero)) (h : complete c s = .next t) : NonZero t := by
  cases hd : decode c with
  | error e =>
    obtain rfl : s.raiseIllegal = t := by simpa [complete_error hd] using h
    exact hs
  | ok i =>
    rw [complete_ok hd] at h
    exact (exec_nonZero_iff hs h).mpr fun hi => hc (by rw [hd, hi])

/-- The host's duty survives an edge whose command in progress, if any, is no zero write. -/
theorem noZeroWrite_of_step {s t : State} (hs : NoZeroWrite s) (h : step s = .next t) :
    NoZeroWrite t := by
  obtain ⟨hbusy, hpins⟩ := hs
  have htail : ∀ p ∈ s.inputs.tail, decode p.command ≠ .ok (.wrst Words.zero) :=
    fun p hp => hpins p (List.mem_of_mem_tail hp)
  have hnext : decode s.pins.command ≠ .ok (.wrst Words.zero) := by
    unfold State.pins
    cases hi : s.inputs with
    | nil => exact nofun
    | cons p ps => exact hpins p (by simp [hi])
  refine ⟨fun c n ht => ?_, by rwa [step_inputs h]⟩
  rcases (busy_of_step h ht).2 with hp | ⟨-, -, rfl⟩
  · exact hbusy c _ hp
  · exact hnext

/-! ### Runs of a host -/

/-- For `n` edges at which nothing is offered, an idle block holds everything (R173). -/
theorem run_idle (n : Nat) {s : State} (hp : s.phase = .idle)
    (hquiet : ∀ p ∈ s.inputs.take n, p.rst = false ∧ p.cmdValid = false) :
    Host.Core.run core n s = .next { s with inputs := s.inputs.drop n } := by
  induction n generalizing s with
  | zero => rfl
  | succ n ih =>
    obtain ⟨⟨hr, hv⟩, hrest⟩ :=
      State.pins_of_forall_take (P := fun p => p.rst = false ∧ p.cmdValid = false) ⟨rfl, rfl⟩ hquiet
    have hidle : s.dropPins.idleEdge = s.dropPins := State.idleEdge_self hp
    rw [run_step (step_idle hr (State.cmdReady_of_idle hp) hv), hidle,
      ih (s := s.dropPins) hp hrest]
    simp [State.dropPins]

/-- A completion reads nothing but the generator: another block with the same generator completes
the command in the same way, with its own inputs still to come. -/
theorem complete_of_gen_eq {c : Command} {s t u : State} (h : complete c s = .next t)
    (hg : s.gen = u.gen) : complete c u = .next { t with inputs := u.inputs } := by
  rw [complete_congr c (t := { s with inputs := u.inputs }) hg.symm rfl]
  cases hd : decode c with
  | error e =>
    obtain rfl : s.raiseIllegal = t := by simpa [complete_error hd] using h
    exact complete_error hd _
  | ok i =>
    rw [complete_ok hd] at h ⊢
    rcases exec_cases i s with ⟨hs, hi, he⟩ | ⟨-, hi, he⟩ | ⟨w, hs, he⟩
    · obtain rfl : s.raiseUnseeded = t := by simpa [he] using h
      exact exec_unseeded hi hs
    · obtain rfl : (s.setWords (wordsAfter i Words.zero)).respond .ok 0 = t := by
        simpa [he] using h
      exact exec_construct hi _
    · obtain rfl : (s.setWords (wordsAfter i w)).respond .ok (dataAfter i w) = t := by
        simpa [he] using h
      exact exec_seeded hs

/-- Issuing a command has the response and the effect of its completion in any block with the same
generator. -/
theorem issue_of_complete {c : Command} {s t u : State} {r : Response}
    (h : complete c s = .next t) (hr : t.rsp = some r) (hg : s.gen = u.gen) :
    issue c u = some (r, { t with inputs := u.inputs }) := by
  have hc : transact c u = .next { t with inputs := u.inputs } :=
    complete_of_gen_eq (u := u.accept c 0) h hg
  simp [issue, reply, hc, hr]

/-- A command sequence is its first command's response and the sequence of the others. -/
theorem issueAll_cons {c : Command} {cs : List Command} {s t u : State} {r : Response}
    {rs : List Response} (hc : issue c s = some (r, t)) (hcs : issueAll cs t = some (rs, u)) :
    issueAll (c :: cs) s = some (r :: rs, u) := by
  simp [issueAll, hc, hcs]

theorem schedule_cons (c : Command) (cs : List Command) :
    schedule (c :: cs) =
      Pins.offer c :: (List.replicate (latency c) Pins.quiet ++ schedule cs) := rfl

/-- A schedule gives each command its latency: from a ready block its run is the untimed sequence
(R190). -/
theorem run_schedule (cs : List Command) {s : State} {rest : List Pins} (hready : s.cmdReady = true)
    (hi : s.inputs = schedule cs ++ rest) :
    ∃ rs t, issueAll cs { s with inputs := rest } = some (rs, t) ∧ rs.length = cs.length ∧
      Host.Core.run core (schedule cs).length s = .next t := by
  induction cs generalizing s with
  | nil => exact ⟨[], s, by cases s; cases hi; rfl, rfl, rfl⟩
  | cons c cs ih =>
    have hoffer : s.inputs =
        Pins.offer c :: (List.replicate (latency c) Pins.quiet ++ (schedule cs ++ rest)) := by
      simpa [schedule_cons] using hi
    have hrst : ∀ p ∈ (List.replicate (latency c) Pins.quiet ++ (schedule cs ++ rest)).take
        (latency c), p.rst = false := by simp [Pins.quiet]
    obtain ⟨t, r, hc, hr, hidle, ht⟩ := complete_answers c { s with inputs := schedule cs ++ rest }
    obtain ⟨rs, u, hrs, hlen, hrun⟩ := ih (State.cmdReady_of_idle hidle) ht
    refine ⟨r :: rs, u, issueAll_cons (issue_of_complete hc hr rfl) hrs, by simp [hlen], ?_⟩
    have hfirst : Host.Core.run core (latency c + 1) s = .next t :=
      run_latency hready hoffer hrst (by simpa using hc)
    have hlength : (schedule (c :: cs)).length = latency c + 1 + (schedule cs).length := by
      simp [schedule_cons, Nat.add_right_comm]
    rw [hlength, run_add hfirst, hrun]

/-- Blocks with the same generator give the same responses to a command sequence, and end with the
same generator (R187). -/
theorem issueAll_of_gen_eq (cs : List Command) {s t : State} (h : s.gen = t.gen) :
    ∃ rs s' t', issueAll cs s = some (rs, s') ∧ issueAll cs t = some (rs, t') ∧
      s'.gen = t'.gen := by
  induction cs generalizing s t with
  | nil => exact ⟨[], s, t, rfl, rfl, h⟩
  | cons c cs ih =>
    obtain ⟨u, r, hc, hr, -⟩ := complete_answers c s
    obtain ⟨rs, s', t', hs, ht, hg⟩ :=
      ih (s := { u with inputs := s.inputs }) (t := { u with inputs := t.inputs }) rfl
    exact ⟨r :: rs, s', t', issueAll_cons (issue_of_complete hc hr rfl) hs,
      issueAll_cons (issue_of_complete hc hr h) ht, hg⟩

/-! ### The obligations about every edge -/

/-- Settles O10: each thing an edge can do keeps the invariant. -/
theorem portInvKept : Obligations.PortInvKept := by
  intro s t hs h
  have hd := portInv_dropPins hs
  exact step_induction h (fun _ => portInv_resetEdge _) (fun _ _ hc => portInv_of_complete hc)
    (fun c n hp => portInv_of_busy rfl (hd.busy_silent c _ hp)) (portInv_of_busy rfl rfl)
    fun hp => portInv_idleEdge hd hp

/-- Settles O48: only a completion can write S, and under the host's duty none writes zero. -/
theorem nonZeroKept : Obligations.NonZeroKept := by
  intro s t hs hduty h
  refine ⟨?_, noZeroWrite_of_step hduty h⟩
  obtain ⟨hbusy, -⟩ := hduty
  exact step_induction h (fun _ => nonZero_of_unseeded rfl)
    (fun c hp hc => complete_nonZero (s := s.dropPins) hs (hbusy c 0 hp) hc)
    (fun _ _ _ => hs) hs fun _ => hs

/-- Settles O8. -/
theorem stepAlwaysGoesOn : Obligations.StepAlwaysGoesOn :=
  ⟨step_goesOn, exec_goesOn, complete_goesOn⟩

/-- Settles O11, by induction on the number of edges. -/
theorem idleBlockHoldsItsState : Obligations.IdleBlockHoldsItsState :=
  fun n _ hp hquiet => run_idle n hp hquiet

/-- Settles O12, by induction on the commands: each gets the edges of its latency. -/
theorem scheduledCommandsRunInOrder : Obligations.ScheduledCommandsRunInOrder :=
  fun cs _ _ hready hi => run_schedule cs hready hi

/-- Settles O13: but for a completion no edge touches the generator, and a reset edge keeps nothing
but the pins to come. -/
theorem stateChangesOnlyAtCompletion : Obligations.StateChangesOnlyAtCompletion := by
  refine ⟨fun s t h hr hp => ?_, fun s t hi hr => ?_⟩
  · exact step_induction (P := fun t => t.gen = s.gen) h (fun hr' => by simp [hr] at hr')
      (fun c hc => absurd hc (hp c)) (fun _ _ _ => rfl) rfl fun _ => rfl
  · have hpins : s.pins = t.pins := by simp [State.pins, hi]
    rw [step_reset hr, step_reset (hpins ▸ hr)]
    simp [State.resetEdge, State.dropPins, hi]

/-- Settles O52, by induction on the commands: a completion reads nothing but the generator. -/
theorem equalStatesGiveEqualStreams : Obligations.EqualStatesGiveEqualStreams :=
  fun cs _ _ h => issueAll_of_gen_eq cs h

/-- Settles O3: after a reset edge a block without `rst` is ready. -/
theorem firstEdgeAfterResetAccepts : Obligations.FirstEdgeAfterResetAccepts := by
  intro s c rest hp hi
  refine step_offer ?_ hi
  simp [State.cmdReady_of_inReset hp, State.pins, hi, Pins.offer]

/-- Settles O7, by the equation of a completing edge; a placed command is in progress with no edge
left. -/
theorem stepRunsTheDecodedInstruction : Obligations.StepRunsTheDecodedInstruction := by
  refine ⟨fun s c i hp hr hd => ?_, fun s c e hp hr hd => ?_, fun s nbits w i hd => ?_⟩
  · exact (step_complete hr hp).trans (complete_ok hd _)
  · exact (step_complete hr hp).trans (complete_error hd _)
  · have hdecode : decode (commandOfBits nbits w) = .ok i := by
      unfold decodeTableWord at hd
      split at hd <;> simp_all
    exact (step_complete (s := s.withFetchWord nbits w) rfl rfl).trans (complete_ok hdecode _)

/-- Settles O9: at reset there is no response, and SEEDED = 0. -/
theorem portInvAtReset : Obligations.PortInvAtReset where
  reset_clears h := nomatch h
  busy_silent _ _ h := nomatch h
  fresh_unseeded _ _ := rfl
  error_data_zero _ h := nomatch h
  unseeded_status _ h := nomatch h

end Sys2Proof.Machine

/-!
The encoder against the decoder, family other: each is the inverse of the other where the decoder
accepts (R61 to R68), the rows of the opcode map, and the commands that lie in several formats'
operand fields (R45, R74).
-/

namespace Sys2Proof

/-! ### The operand of format Q (R62, R65) -/

theorem setWidth_quad_eq_append (v : Quad) : v.setWidth 128 = (0 : Quad) ++ v :=
  BitVec.setWidth_eq_append (by decide)

theorem setWidth_quad_low (v : Quad) : (v.setWidth 128).extractLsb' 0 64 = v := by
  rw [setWidth_quad_eq_append, BitVec.extractLsb'_append_eq_right]

theorem setWidth_quad_high (v : Quad) : (v.setWidth 128).extractLsb' 64 64 = 0 := by
  rw [setWidth_quad_eq_append, BitVec.extractLsb'_append_eq_left]

/-- Data whose high half is zero is its low half, extended. -/
theorem setWidth_of_quad_high {d : Data} (h : d.extractLsb' 64 64 = 0) :
    (d.extractLsb' 0 64).setWidth 128 = d := by
  rw [setWidth_quad_eq_append, ← h]
  exact BitVec.extractLsb'_append_extractLsb' (w := 64) (len := 64)

/-- The opcode map's row of SEED64 (R66). -/
theorem decode_seed64 (d : Data) : decode ⟨0x06, d⟩ = decodeQuad .seed64 d :=
  decode_of_op (k := 0x6) (by decide) (by decide) d

/-! ### The round trips -/

/-- The decoder reads every instruction back, row by row of the opcode map. -/
theorem decode_encode (i : Instr) : decode (encode i) = .ok i := by
  cases i with
  | nextp => exact (Machine.decode_nextp 0).trans (decodeNone_zero _)
  | nextss => exact (Machine.decode_nextss 0).trans (decodeNone_zero _)
  | jump => exact (Machine.decode_jump 0).trans (decodeNone_zero _)
  | ljump => exact (Machine.decode_ljump 0).trans (decodeNone_zero _)
  | seedb b => exact Machine.decode_seedb b
  | seed64 v =>
    rw [encode, decode_seed64, decodeQuad_low _ (setWidth_quad_high v), setWidth_quad_low]
  | rdst => exact (Machine.decode_rdst 0).trans (decodeNone_zero _)
  | wrst w => rw [encode, Machine.decode_wrst, Machine.wordsOf_dataOf]
  | eqst w => rw [encode, Machine.decode_eqst, Machine.wordsOf_dataOf]

theorem decodeNone_eq_ok_iff {i j : Instr} {d : Data} :
    decodeNone i d = .ok j ↔ d = 0 ∧ i = j := by
  by_cases h : d = 0
  · rw [h, decodeNone_zero]
    simp
  · exact iff_of_false (by simp [decodeNone_nonzero i h]) fun ⟨hd, _⟩ => h hd

theorem decodeQuad_eq_ok_iff {f : Quad → Instr} {j : Instr} {d : Data} :
    decodeQuad f d = .ok j ↔ d.extractLsb' 64 64 = 0 ∧ f (d.extractLsb' 0 64) = j := by
  by_cases h : d.extractLsb' 64 64 = 0
  · rw [decodeQuad_low f h]
    simp [h]
  · exact iff_of_false (by simp [decodeQuad_high f h]) fun ⟨hd, _⟩ => h hd

/-- What a row of the opcode map accepts, the encoder gives back. -/
theorem encode_of_decodeOp {k : Nat} {d : Data} {i : Instr} (h : decodeOp k d = .ok i) :
    encode i = ⟨BitVec.ofNat 8 k, d⟩ := by
  unfold decodeOp at h
  split at h
  case h_5 => obtain rfl := Except.ok.inj h; rfl
  case h_6 =>
    obtain ⟨hd, rfl⟩ := decodeQuad_eq_ok_iff.mp h
    rw [encode, setWidth_of_quad_high hd]
    rfl
  case h_8 | h_9 => obtain rfl := Except.ok.inj h; rw [encode, Machine.dataOf_wordsOf]; rfl
  case h_10 => cases h
  all_goals obtain ⟨rfl, rfl⟩ := decodeNone_eq_ok_iff.mp h; rfl

/-- With RSV = 0000 the opcode byte is its OP. -/
theorem op_eq_ofNat {op : Byte} (rsv : op.extractLsb' 4 4 = 0) :
    op = BitVec.ofNat 8 (op.extractLsb' 0 4).toNat := by
  revert op
  decide

/-- A command that decodes is the encoding of what it decodes to. -/
theorem encode_of_decode {c : Command} {i : Instr} (h : decode c = .ok i) : encode i = c := by
  obtain ⟨op, d⟩ := c
  by_cases rsv : op.extractLsb' 4 4 = 0
  · rw [decode_of_op rsv rfl] at h
    rw [encode_of_decodeOp h, ← op_eq_ofNat rsv]
  · simp [decode_of_rsv rsv] at h

namespace Machine

/-! ### Words as SEEDB's operand (R45, R74) -/

/-- SEEDB of bytes that are not all zero is WRST of the same 128 bits (R45). -/
theorem exec_seedb_of_ne_zero {d : Data} (h : d ≠ 0) (s : State) :
    exec (.seedb d) s = exec (.wrst (wordsOf d)) s := by
  rw [exec_seedb, substituteZero_of_ne_zero h, seedWords_eq_wordsOf, exec_wrst]

/-- The four bytes of a word, each in its place, are the word. -/
@[simp] theorem seedwBytes_eq (w : Word) : seedwBytes w = w := by
  refine BitVec.eq_of_getLsbD_eq fun k hk => ?_
  simp only [seedwBytes, BitVec.getLsbD_append, BitVec.getLsbD_extractLsb']
  split_ifs <;> (rw [decide_eq_true (by omega), Bool.true_and]; congr 1; omega)

/-- SEEDW's operand holds word i in word lane i (R74). -/
theorem seedwCommand_eq (w : Words) : seedwCommand w = ⟨0x05, dataOf w⟩ := by
  simp only [seedwCommand, seedwBytes_eq, dataOf]

theorem dataOf_ne_zero {w : Words} (h : w ≠ Words.zero) : dataOf w ≠ 0 := by
  intro hd
  refine h ?_
  rw [← wordsOf_dataOf w, hd]
  rfl

/-! ### The obligations about encodings -/

/-- Settles O15. -/
theorem decodeOfEncode : Obligations.DecodeOfEncode := decode_encode

/-- Settles O16. -/
theorem encodeOfDecode : Obligations.EncodeOfDecode := fun _ _ => encode_of_decode

/-- Settles O19: each line is one evaluation of the decoder. -/
theorem writtenOutCommandsDecode : Obligations.WrittenOutCommandsDecode :=
  ⟨rfl, rfl, rfl, rfl, rfl, rfl, rfl, rfl, rfl, rfl, rfl, rfl, rfl, rfl⟩

/-- Settles O21: both commands construct S from the same four words. -/
theorem nonzeroSeedBytesAreTheWords : Obligations.NonzeroSeedBytesAreTheWords := by
  intro d s hd
  rw [complete_ok (decode_seedb d), complete_ok (decode_wrst d), exec_seedb_of_ne_zero hd]

/-- Settles O56: SEEDW is a SEEDB of the packed words, and these are zero only if all four are. -/
theorem seedwSeedsFromWords : Obligations.SeedwSeedsFromWords := by
  intro w s
  rw [seedwCommand_eq]
  refine ⟨decode_seedb _, fun hw => ?_⟩
  rw [complete_ok (decode_seedb _), exec_seedb_of_ne_zero (dataOf_ne_zero hw), wordsOf_dataOf]

end Machine

end Sys2Proof

/-!
SplitMix64, family other: its output function is a bijection (R105), so that SEED64's zero check
never fires and its state is the two outputs (R103).
-/

namespace Sys2Proof.Machine

/-! ### The output function is a bijection (R105) -/

/-- `z ^ (z >> k)`, the shift steps of SplitMix64's output (R102). -/
def xorShift (k : Nat) (z : Quad) : Quad := z ^^^ (z >>> k)

/-- SplitMix64's output as a function of the incremented state (R102). -/
def splitMixOut (x' : Quad) : Quad :=
  xorShift 31 (xorShift 27 (xorShift 30 x' * 0xBF58476D1CE4E5B9) * 0x94D049BB133111EB)

theorem splitMix_eq (x : Quad) :
    splitMix x = (x + 0x9E3779B97F4A7C15, splitMixOut (x + 0x9E3779B97F4A7C15)) := rfl

/-- Only zero is its own right shift. -/
theorem eq_zero_of_eq_ushiftRight {k : Nat} (hk : 0 < k) {d : Quad} (h : d = d >>> k) : d = 0 := by
  by_contra hd
  have hpos : 0 < d.toNat := Nat.pos_of_ne_zero fun h0 => hd (BitVec.eq_of_toNat_eq h0)
  have hlt : d.toNat / 2 ^ k < d.toNat :=
    Nat.div_lt_self hpos (Nat.one_lt_two_pow hk.ne')
  have heq : d.toNat = d.toNat / 2 ^ k := by
    simpa [BitVec.toNat_ushiftRight, Nat.shiftRight_eq_div_pow] using congrArg BitVec.toNat h
  omega

/-- Two arguments with the same `z ^ (z >> k)` differ by bits that equal their own shift. -/
theorem xorShift_injective {k : Nat} (hk : 0 < k) : Function.Injective (xorShift k) := by
  intro x y h
  refine BitVec.xor_eq_zero_iff.mp (eq_zero_of_eq_ushiftRight hk ?_)
  refine BitVec.xor_eq_zero_iff.mp ?_
  calc x ^^^ y ^^^ (x ^^^ y) >>> k = xorShift k x ^^^ xorShift k y := by
        rw [BitVec.ushiftRight_xor_distrib]
        unfold xorShift
        ac_rfl
    _ = 0 := BitVec.xor_eq_zero_iff.mpr h

/-- Multiplication by a number that has an inverse mod 2^64 is injective. -/
theorem mul_right_injective_of_inverse {c c' : Quad} (h : c * c' = 1) :
    Function.Injective fun z : Quad => z * c :=
  Function.LeftInverse.injective (g := fun z => z * c') fun z =>
    calc z * c * c' = z * (c * c') := BitVec.mul_assoc z c c'
      _ = z := by rw [h]; exact BitVec.mul_one z

theorem splitMixOut_injective : Function.Injective splitMixOut := by
  have h1 : Function.Injective fun z : Quad => z * 0xBF58476D1CE4E5B9 :=
    mul_right_injective_of_inverse (c' := 0x96DE1B173F119089) (by decide)
  have h2 : Function.Injective fun z : Quad => z * 0x94D049BB133111EB :=
    mul_right_injective_of_inverse (c' := 0x319642B2D24D8EC3) (by decide)
  exact (xorShift_injective (by decide)).comp <| h2.comp <|
    (xorShift_injective (by decide)).comp <| h1.comp <| xorShift_injective (by decide)

theorem splitMixOut_bijective : Function.Bijective splitMixOut := by
  have hfinite : Finite Quad := Finite.of_injective BitVec.toFin fun _ _ => BitVec.eq_of_toFin_eq
  exact Finite.injective_iff_bijective.mp splitMixOut_injective

/-! ### SEED64 (R103) -/

theorem eq_zero_of_halves {z : Quad} (hlow : lowHalf z = 0) (hhigh : highHalf z = 0) : z = 0 := by
  have hz : z.extractLsb' 32 32 ++ z.extractLsb' 0 32 = z :=
    BitVec.extractLsb'_append_extractLsb' (w := 32) (len := 32)
  rw [← hz, show z.extractLsb' 0 32 = 0 from hlow, show z.extractLsb' 32 32 = 0 from hhigh]
  rfl

/-- Two consecutive outputs are different, so that they are not both zero. -/
theorem splitMixWords_ne_zero (v : Quad) : splitMixWords v ≠ Words.zero := by
  intro h
  obtain ⟨h0, h1, h2, h3⟩ := Words.mk.inj h
  have hfirst : splitMixOut (v + 0x9E3779B97F4A7C15) = 0 := eq_zero_of_halves h0 h1
  have hsecond : splitMixOut (v + 0x9E3779B97F4A7C15 + 0x9E3779B97F4A7C15) = 0 :=
    eq_zero_of_halves h2 h3
  have hstep := splitMixOut_injective (hsecond.trans hfirst.symm)
  bv_omega

/-- The zero check of R103 and R104 never fires. -/
theorem exec_seed64 (v : Quad) (s : State) :
    exec (.seed64 v) s = .next ((s.setWords (splitMixWords v)).respond .ok 0) := by
  rw [exec_construct rfl, wordsAfter, substituteZeroWords, if_neg (splitMixWords_ne_zero v)]

theorem complete_seed64 (d : Data) (s : State) : complete ⟨0x06, d⟩ s =
    if d.extractLsb' 64 64 = 0 then exec (.seed64 (d.extractLsb' 0 64)) s
    else .next s.raiseIllegal := by
  by_cases hd : d.extractLsb' 64 64 = 0
  · rw [if_pos hd, complete_ok (by rw [decode_seed64, decodeQuad_low _ hd])]
  · rw [if_neg hd, complete_error (by rw [decode_seed64, decodeQuad_high _ hd])]

/-! ### The obligations about SEED64 -/

/-- Settles O46: each shift step and each multiplication is injective, and two consecutive states
are different. -/
theorem seed64NeverAllZero : Obligations.Seed64NeverAllZero := by
  refine ⟨splitMixWords_ne_zero, ?_⟩
  have hout : (fun x' : Quad => (splitMix (x' - 0x9E3779B97F4A7C15)).2) = splitMixOut := by
    funext x'
    rw [splitMix_eq, BitVec.sub_add_cancel]
  exact hout ▸ splitMixOut_bijective

/-- Settles O27: SEED64 constructs S from the two outputs, and its row of the opcode map rejects
data in the high half. -/
theorem seed64Result : Obligations.Seed64Result :=
  ⟨exec_seed64, complete_seed64, by decide +kernel⟩

end Sys2Proof.Machine

/-!
The transition as a linear map, family other: its closed form and that it is a bijection (R80, R81),
and the closed form of the jump engine (R121).
-/

namespace Sys2Proof.Machine

/-! ### T is a bijection (R81) -/

theorem transition_injective : Function.Injective transition := by
  intro x y h
  refine Words.xor_eq_zero.mp ((transition_eq_zero_iff _).mp ?_)
  rw [transition_xor, h, Words.xor_self]

/-- The tuples are finitely many, as the 128 bits that hold them. -/
theorem finite_words : Finite Words := by
  have hbits : Finite Data := Finite.of_injective BitVec.toFin fun _ _ => BitVec.eq_of_toFin_eq
  exact Finite.of_injective dataOf (Function.LeftInverse.injective wordsOf_dataOf)

theorem transition_bijective : Function.Bijective transition :=
  have := finite_words
  Finite.injective_iff_bijective.mp transition_injective

theorem transitionN_bijective (n : Nat) : Function.Bijective (transitionN n) :=
  transition_bijective.iterate n

/-! ### The engine's result as one sum (R121) -/

/-- Adding T^k(S) to an accumulator for each k < n with `f k` gives the polynomial's value. -/
theorem foldl_range_eq_polyAt (f : Nat → Bool) (n : Nat) (s : Words) :
    (List.range n).foldl (fun acc k => if f k then acc.xor (transitionN k s) else acc) Words.zero =
      polyAt f n s := by
  induction n with
  | zero => rfl
  | succ n ih =>
    rw [List.range_succ, List.foldl_append, ih, polyAt]
    cases hf : f n <;> simp [hf]

/-- Bit k mod 32 of word lane k div 32 is bit k. -/
theorem getLsbD_wordLane_div_mod (d : Data) (k : Nat) :
    (wordLane d (k / 32)).getLsbD (k % 32) = d.getLsbD k := by
  rw [getLsbD_wordLane _ _ _ (Nat.mod_lt k (by decide)), Nat.div_add_mod]

/-! ### The obligations about one transition -/

/-- Settles O36: the closed form, with the model's rotation as the library's. -/
theorem transitionClosedForm : Obligations.TransitionClosedForm := by
  refine ⟨fun a b c d => ?_, by decide⟩
  rw [transition_closed, rotl32_eq_rotateLeft _ (by decide)]

/-- Settles O37: T is linear with a trivial kernel, on finitely many states. -/
theorem transitionIsLinearBijection : Obligations.TransitionIsLinearBijection :=
  ⟨transition_xor, transition_zero, transition_bijective⟩

/-- Settles O42: the engine evaluates the polynomial of the constant's bits. -/
theorem jumpPolyClosedForm : Obligations.JumpPolyClosedForm := by
  intro c s
  simp only [getLsbD_wordLane_div_mod, foldl_range_eq_polyAt]
  exact jumpPoly_eq_polyVal c s

end Sys2Proof.Machine

/-!
The order of the transition, family other: T^(2^128 - 1) is the identity, and for no prime p of
2^128 - 1 does T^((2^128 - 1) / p) leave any state but zero as it was (R81, R87). So every other
state lies on a cycle of 2^128 - 1 states, on which a jump is a distance (R124, R126).
-/

namespace Sys2Proof.Machine

/-- 2^128 - 1, the number of states that are not all zero. -/
def period : Nat := 2 ^ 128 - 1

/-! ### Powers of x on numerals

The steps of `xPow` on natural numbers, written with the functions that the kernel evaluates on
numerals with its own arithmetic: a power of x costs it a second. -/

/-- `mulX` on the number that the bits write. -/
def mulXNat (n : Nat) : Nat :=
  Nat.xor (Nat.mod (Nat.mul 2 n) 0x100000000000000000000000000000000)
    (Nat.mul (Nat.mod (Nat.div n 0x80000000000000000000000000000000) 2)
      0xFC65A2006254B11B489DB6DE18FC01)

/-- `squareBits` on the `k` low bits of a number. -/
def squareNat : Nat → Nat → Nat
  | 0, _ => 0
  | k + 1, n => Nat.xor (Nat.mod n 2) (mulXNat (mulXNat (squareNat k (Nat.div n 2))))

/-- `xPow` on numbers. -/
def xPowNat : Nat → Nat → Nat
  | 0, _ => 1
  | fuel + 1, e =>
    let h := squareNat 128 (xPowNat fuel (e / 2))
    if e % 2 = 1 then mulXNat h else h

theorem mulXNat_eq (n : Nat) :
    mulXNat n = 2 * n % 2 ^ 128 ^^^ n / 2 ^ 127 % 2 * charLow.toNat := rfl

theorem squareNat_succ (k n : Nat) :
    squareNat (k + 1) n = n % 2 ^^^ mulXNat (mulXNat (squareNat k (n / 2))) := rfl

theorem ofNat_mulXNat (n : Nat) : BitVec.ofNat 128 (mulXNat n) = mulX (BitVec.ofNat 128 n) := by
  have hlow : BitVec.ofNat 128 (2 * n % 2 ^ 128) = BitVec.ofNat 128 n <<< 1 := by
    refine BitVec.eq_of_toNat_eq ?_
    simp [BitVec.toNat_shiftLeft, Nat.shiftLeft_eq, Nat.mul_comm]
  have hmsb : (BitVec.ofNat 128 n).msb = decide (n / 2 ^ 127 % 2 = 1) := by
    rw [BitVec.msb_eq_getLsbD_last, BitVec.getLsbD_ofNat, Nat.testBit_eq_decide_div_mod_eq]
    simp
  rw [mulXNat_eq, BitVec.ofNat_xor, hlow, mulX, hmsb]
  rcases Nat.mod_two_eq_zero_or_one (n / 2 ^ 127) with h | h <;> rw [h] <;> simp

theorem ofNat_squareNat (k n : Nat) :
    BitVec.ofNat 128 (squareNat k n) = squareBits ((List.range k).map n.testBit) := by
  induction k generalizing n with
  | zero => rfl
  | succ k ih =>
    have htail : (List.range k).map (n.testBit ∘ Nat.succ) = (List.range k).map (n / 2).testBit :=
      List.map_congr_left fun i _ => Nat.testBit_succ n i
    have hhead : BitVec.ofNat 128 (n % 2) = if n.testBit 0 then 1 else 0 := by
      rcases Nat.mod_two_eq_zero_or_one n with h | h <;> simp [h]
    rw [squareNat_succ, BitVec.ofNat_xor, ofNat_mulXNat, ofNat_mulXNat, ih, hhead,
      List.range_succ_eq_map, List.map_cons, List.map_map, htail, squareBits]

theorem polyBits_ofNat (n : Nat) :
    polyBits (BitVec.ofNat 128 n) = (List.range 128).map n.testBit :=
  List.map_congr_left fun k hk => by
    rw [BitVec.getLsbD_ofNat, decide_eq_true (List.mem_range.mp hk), Bool.true_and]

theorem ofNat_xPowNat (fuel e : Nat) : BitVec.ofNat 128 (xPowNat fuel e) = xPow fuel e := by
  induction fuel generalizing e with
  | zero => rfl
  | succ fuel ih =>
    have hsquare : BitVec.ofNat 128 (squareNat 128 (xPowNat fuel (e / 2))) =
        squareBits (polyBits (xPow fuel (e / 2))) := by
      rw [ofNat_squareNat, ← polyBits_ofNat, ih]
    simp only [xPowNat, xPow]
    split_ifs
    · rw [ofNat_mulXNat, hsquare]
    · exact hsquare

/-- For an exponent in range, the power of x that `xPowNat` computes has the value T^e. -/
theorem polyVal_xPowNat {e : Nat} (he : e ≤ period) (w : Words) :
    polyVal (BitVec.ofNat 128 (xPowNat 128 e)) w = transitionN e w := by
  have hlt : e < 2 ^ 128 := by
    unfold period at he
    omega
  rw [ofNat_xPowNat, polyVal_xPow 128 e hlt]

/-! ### T^(2^128 - 1) is the identity -/

theorem xPowNat_period : xPowNat 128 period = 1 := by decide +kernel

theorem transitionN_period (w : Words) : transitionN period w = w := by
  rw [← polyVal_xPowNat le_rfl, xPowNat_period]
  exact polyVal_one w

/-! ### No smaller power fixes a state but zero -/

/-- The primes of 2^128 - 1, each prime p with the inverse of x^((2^128 - 1) / p) + 1 modulo the
characteristic polynomial of T. -/
def periodPrimes : List (Nat × Data) :=
  [(3, 0x188ce7ea029c4bf6dded83847a711395), (5, 0xd0b81dc3de8363ddddfd32c4ef886bf4),
   (17, 0x7d5de34ef14456cdccabf22143842b52), (257, 0xf98c9dfcc04c64b2b8cfb96508e78fcd),
   (641, 0x40b0c263cbfa8427d62f24e6089d3f8b), (65537, 0x7c352e1c640bd6131b1eecf072501922),
   (274177, 0x464896dcfdd900fb8dfdabe1bc3542b9), (6700417, 0xcfaf9079377931cb1b4625d2ff58d222),
   (67280421310721, 0x39046ea60511db4048a3c9d486cbc62a)]

theorem mul_inverse : ∀ f ∈ periodPrimes,
    mulBits (polyBits f.2) (BitVec.ofNat 128 (xPowNat 128 (period / f.1)) ^^^ 1) = 1 := by
  decide +kernel

/-- T^((2^128 - 1) / p) + 1 is invertible, so that it has a trivial kernel. -/
theorem eq_zero_of_transitionN_eq_self {f : Nat × Data} (hf : f ∈ periodPrimes) {w : Words}
    (h : transitionN (period / f.1) w = w) : w = Words.zero := by
  have hpow : polyVal (BitVec.ofNat 128 (xPowNat 128 (period / f.1))) w = w :=
    (polyVal_xPowNat (Nat.div_le_self _ _) w).trans h
  calc w = polyVal f.2 (polyVal (BitVec.ofNat 128 (xPowNat 128 (period / f.1)) ^^^ 1) w) := by
        rw [← polyVal_mul, mul_inverse f hf, polyVal_one]
    _ = Words.zero := by rw [polyVal_xor, hpow, polyVal_one, Words.xor_self, polyVal_of_zero]

/-! ### The primes of 2^128 - 1 -/

theorem prime_factor_cases {q : Nat} (hq : q.Prime) (h : q ∣ 67280421310721 - 1) :
    q = 2 ∨ q = 5 ∨ q = 47 ∨ q = 373 ∨ q = 2998279 := by
  have hmem : q ∈ List.replicate 8 2 ++ [5, 47, 373, 2998279] := by
    refine mem_list_primes_of_dvd_prod hq.prime ?_ (by simpa using h)
    simp only [List.forall_mem_append, List.forall_mem_cons, List.mem_replicate, ← Nat.prime_iff]
    norm_num
  simpa using hmem

/-- The largest prime, by Lucas's test with base 3. -/
theorem prime_67280421310721 : Nat.Prime 67280421310721 := by
  refine lucas_primality _ 3 (by norm_num; reduce_mod_char) fun q hq h => ?_
  rcases prime_factor_cases hq h with rfl | rfl | rfl | rfl | rfl <;>
  · norm_num
    reduce_mod_char
    decide

theorem mem_periodPrimes {p : Nat} (hp : p.Prime) (h : p ∣ period) :
    ∃ f ∈ periodPrimes, f.1 = p := by
  have hprod : (periodPrimes.map Prod.fst).prod = period := by decide +kernel
  rw [← hprod] at h
  refine List.mem_map.mp (mem_list_primes_of_dvd_prod hp.prime ?_ h)
  simp only [periodPrimes, List.map_cons, List.map_nil, List.forall_mem_cons, ← Nat.prime_iff]
  exact ⟨by norm_num, by norm_num, by norm_num, by norm_num, by norm_num, by norm_num,
    by norm_num, by norm_num, prime_67280421310721, nofun⟩

/-! ### The period of a state (R87) -/

/-- A period `n` is the minimal one if n / p is none for each prime p of n. -/
theorem minimalPeriod_eq_of_prime {α : Type} {f : α → α} {x : α} {n : Nat}
    (hx : Function.IsPeriodicPt f n x)
    (hp : ∀ p, p.Prime → p ∣ n → ¬ Function.IsPeriodicPt f (n / p) x) :
    Function.minimalPeriod f x = n := by
  obtain ⟨a, ha⟩ := hx.minimalPeriod_dvd
  have hone : a = 1 := Nat.eq_one_iff_not_exists_prime_dvd.mpr fun p hprime hdvd => by
    obtain ⟨b, rfl⟩ := hdvd
    have hquot : n / p = Function.minimalPeriod f x * b := by
      rw [ha, Nat.mul_left_comm, Nat.mul_div_cancel_left _ hprime.pos]
    refine hp p hprime ⟨_, ha.trans (Nat.mul_left_comm _ _ _)⟩ ?_
    rw [hquot]
    exact (Function.isPeriodicPt_minimalPeriod f x).mul_const b
  rw [ha, hone, Nat.mul_one]

section
variable {w : Words} (hw : w ≠ Words.zero)
include hw

theorem minimalPeriod_transition : Function.minimalPeriod transition w = period := by
  refine minimalPeriod_eq_of_prime (transitionN_period w) fun p hp hdvd h => ?_
  obtain ⟨f, hf, rfl⟩ := mem_periodPrimes hp hdvd
  exact hw (eq_zero_of_transitionN_eq_self hf h)

/-- Every state but zero returns to itself exactly after the multiples of 2^128 - 1. -/
theorem transitionN_eq_self_iff (n : Nat) : transitionN n w = w ↔ period ∣ n := by
  rw [← minimalPeriod_transition hw]
  exact Function.isPeriodicPt_iff_minimalPeriod_dvd

/-- Within one period the states are different. -/
theorem transitionN_inj {m n : Nat} (hm : m < period) (hn : n < period) :
    transitionN m w = transitionN n w ↔ m = n := by
  rw [← minimalPeriod_transition hw] at hm hn
  exact Function.iterate_eq_iterate_iff_of_lt_minimalPeriod hm hn

/-- No power of T below the period but T^0 leaves the state as it was. -/
theorem transitionN_ne_self {n : Nat} (h0 : 0 < n) (hn : n < period) : transitionN n w ≠ w :=
  fun h => Nat.not_dvd_of_pos_of_lt h0 hn ((transitionN_eq_self_iff hw n).mp h)

end

/-! ### Jumps as distances (R124, R126) -/

theorem transitionN_comm (m n : Nat) (s : Words) :
    transitionN m (transitionN n s) = transitionN n (transitionN m s) := by
  rw [← transitionN_add, Nat.add_comm, transitionN_add]

/-- Repeating T^m n times is T^(mn). -/
theorem iterate_transitionN (m n : Nat) : (transitionN m)^[n] = transitionN (m * n) :=
  (Function.iterate_mul transition m n).symm

theorem jumpPoly_jumpConst_eq : jumpPoly jumpConst = transitionN (2 ^ 64) :=
  funext jumpPoly_jumpConst

theorem jumpPoly_ljumpConst_eq : jumpPoly ljumpConst = transitionN (2 ^ 96) :=
  funext jumpPoly_ljumpConst

/-- State a of the subsequence that starts after i long jumps and j jumps. -/
theorem transitionN_jumps (a i j : Nat) (w : Words) :
    transitionN a ((jumpPoly jumpConst)^[j] ((jumpPoly ljumpConst)^[i] w)) =
      transitionN (a + 2 ^ 64 * j + 2 ^ 96 * i) w := by
  rw [jumpPoly_jumpConst_eq, jumpPoly_ljumpConst_eq, iterate_transitionN, iterate_transitionN,
    transitionN_add, transitionN_add]

/-! ### The obligations about the period -/

/-- Settles O39. -/
theorem nonzeroPeriodIsExact : Obligations.NonzeroPeriodIsExact :=
  fun _ n hw => transitionN_eq_self_iff hw n

/-- Settles O38: the order of T is the period of a state that is not zero. -/
theorem transitionOrderIsExact : Obligations.TransitionOrderIsExact := by
  refine ⟨transition_xor, transition_zero, transition_bijective, fun n => ⟨fun h => ?_, ?_⟩⟩
  · exact (transitionN_eq_self_iff (w := ⟨1, 0, 0, 0⟩) (by decide) n).mp (h _)
  · intro hdvd s
    by_cases hs : s = Words.zero
    · rw [hs, transitionN_of_zero]
    · exact (transitionN_eq_self_iff hs n).mpr hdvd

/-- Settles O43, by the jumps as powers of T. -/
theorem jumpsArePowersOfTheTransition : Obligations.JumpsArePowersOfTheTransition := by
  refine ⟨jumpPoly_jumpConst, jumpPoly_ljumpConst, fun s => ?_, fun s => ?_,
    jumpPoly_transition _, jumpPoly_transition _, fun s => ?_, ?_, ?_, ?_, ?_⟩
  · rw [jumpPoly_jumpConst, jumpPoly_jumpConst, ← transitionN_add, ← two_mul, ← pow_succ']
  · rw [jumpPoly_jumpConst_eq, jumpPoly_ljumpConst_eq, transitionN_comm]
  · rw [jumpPoly_jumpConst_eq, iterate_transitionN, jumpPoly_ljumpConst, ← pow_add]
  · exact jumpPoly_jumpConst_eq ▸ transitionN_bijective _
  · exact jumpPoly_ljumpConst_eq ▸ transitionN_bijective _
  · rw [jumpPoly_jumpConst, transitionN_of_zero]
  · rw [jumpPoly_ljumpConst, transitionN_of_zero]

/-- Settles O44: the distances are different and below the period. -/
theorem jumpedStreamsDoNotOverlap : Obligations.JumpedStreamsDoNotOverlap := by
  intro w j k a b hw hjk hk ha hb h
  have hdist := transitionN_jumps (i := 0)
  simp only [Function.iterate_zero_apply] at hdist
  rw [hdist, hdist, transitionN_inj hw (by unfold period; omega) (by unfold period; omega)] at h
  omega

/-- Settles O58: the distances are different and below the period. -/
theorem longJumpedStreamsDoNotOverlap : Obligations.LongJumpedStreamsDoNotOverlap := by
  intro w i j k l a b hw hne hi hj hk hl hij hkl ha hb h
  rw [transitionN_jumps, transitionN_jumps,
    transitionN_inj hw (by unfold period; omega) (by unfold period; omega)] at h
  exact hne (Prod.ext (by omega) (by omega))

end Sys2Proof.Machine

/-!
The instructions as functions of the state words, family other: their frame (R22, R26), zero as a
fixed point of the four that advance the state (R141, R188), and which can be repeated (R49).
-/

namespace Sys2Proof.Machine

/-! ### The four instructions that advance the state -/

/-- NEXTP, NEXTSS, JUMP and LJUMP are powers of T below the period, and not T^0. -/
theorem wordsAfter_eq_transitionN {i : Instr}
    (hi : i = .nextp ∨ i = .nextss ∨ i = .jump ∨ i = .ljump) :
    ∃ n, 0 < n ∧ n < period ∧ ∀ w, wordsAfter i w = transitionN n w := by
  rcases hi with rfl | rfl | rfl | rfl
  · exact ⟨1, by decide, by decide, fun _ => rfl⟩
  · exact ⟨1, by decide, by decide, fun _ => rfl⟩
  · exact ⟨2 ^ 64, by decide, by decide, fun w => by rw [wordsAfter, jumpPoly_jumpConst]⟩
  · exact ⟨2 ^ 96, by decide, by decide, fun w => by rw [wordsAfter, jumpPoly_ljumpConst]⟩

/-- From words that are not zero, each of the four leads to words that are not zero. -/
theorem wordsAfter_ne_zero {i : Instr} (hi : i = .nextp ∨ i = .nextss ∨ i = .jump ∨ i = .ljump)
    {w : Words} (hw : w ≠ Words.zero) : wordsAfter i w ≠ Words.zero := by
  obtain ⟨n, -, -, hn⟩ := wordsAfter_eq_transitionN hi
  rw [hn]
  exact (transitionN_eq_zero_iff n w).not.mpr hw

/-- Zero is a fixed point of each of the four, which answers zero there. -/
theorem wordsAfter_zero {i : Instr} (hi : i = .nextp ∨ i = .nextss ∨ i = .jump ∨ i = .ljump) :
    wordsAfter i Words.zero = Words.zero ∧ dataAfter i Words.zero = 0 := by
  constructor
  · obtain ⟨n, -, -, hn⟩ := wordsAfter_eq_transitionN hi
    rw [hn, transitionN_of_zero]
  · rcases hi with rfl | rfl | rfl | rfl <;> rfl

/-! ### Repeating an instruction (R49) -/

/-- The other five, a second time in a row, leave the same words and give the same data. -/
theorem wordsAfter_idem {i : Instr} (hi : needsState i = false ∨ i = .rdst ∨ ∃ w, i = .eqst w)
    (w : Words) : wordsAfter i (wordsAfter i w) = wordsAfter i w ∧
      dataAfter i (wordsAfter i w) = dataAfter i w := by
  rcases hi with hi | rfl | ⟨v, rfl⟩
  · rcases (needsState_eq_false_iff i).mp hi with ⟨b, rfl⟩ | ⟨v, rfl⟩ | ⟨v, rfl⟩ <;>
      simp only [wordsAfter, dataAfter, and_self]
  · exact ⟨rfl, rfl⟩
  · exact ⟨rfl, rfl⟩

/-- An instruction that repeats its words and data repeats its whole next state. -/
theorem exec_idem {i : Instr} (hi : needsState i = false ∨ i = .rdst ∨ ∃ w, i = .eqst w)
    {s t : State} (h : exec i s = .next t) : exec i t = .next t := by
  rcases exec_cases i s with ⟨hg, hn, he⟩ | ⟨-, hn, he⟩ | ⟨w, -, he⟩
  · obtain rfl : s.raiseUnseeded = t := by simpa [he] using h
    exact exec_unseeded hn hg
  · obtain rfl : (s.setWords (wordsAfter i Words.zero)).respond .ok 0 = t := by simpa [he] using h
    exact exec_construct hn _
  · obtain rfl : (s.setWords (wordsAfter i w)).respond .ok (dataAfter i w) = t := by
      simpa [he] using h
    obtain ⟨hwords, hdata⟩ := wordsAfter_idem hi w
    rw [exec_seeded (w := wordsAfter i w) rfl, hwords, hdata]
    rfl

/-- With SEEDED = 1 the words after an instruction are `wordsAfter`. -/
theorem gen_of_exec_seeded {i : Instr} {s t : State} {w : Words} (hs : s.gen = .seeded w)
    (h : exec i s = .next t) : t.gen = .seeded (wordsAfter i w) := by
  obtain rfl := Host.Outcome.next.inj ((exec_seeded hs).symm.trans h)
  rfl

/-! ### The obligations about instructions -/

/-- Settles O35, by the cases of an instruction; a construction is one state for all S. -/
theorem frameOfEveryInstruction : Obligations.FrameOfEveryInstruction := by
  refine ⟨fun i s t h => ?_, fun i s t hi hinputs => ?_⟩
  · have hseeded : needsState i = true → t.seeded = s.seeded := fun hi =>
      Bool.eq_iff_iff.mpr ((exec_seeded_iff h).trans (by simp [hi]))
    rcases exec_cases i s with ⟨-, -, he⟩ | ⟨-, hn, he⟩ | ⟨w, hg, he⟩
    · obtain rfl : s.raiseUnseeded = t := by simpa [he] using h
      exact ⟨rfl, rfl, fun _ => rfl, hseeded⟩
    · obtain rfl : (s.setWords (wordsAfter i Words.zero)).respond .ok 0 = t := by
        simpa [he] using h
      refine ⟨rfl, rfl, ?_, hseeded⟩
      rintro (rfl | ⟨w, rfl⟩) <;> cases hn
    · obtain rfl : (s.setWords (wordsAfter i w)).respond .ok (dataAfter i w) = t := by
        simpa [he] using h
      refine ⟨rfl, rfl, ?_, hseeded⟩
      rintro (rfl | ⟨v, rfl⟩) <;> exact hg.symm
  · rw [exec_construct hi, exec_construct hi]
    simp [State.respond, State.setWords, hinputs]

/-- Settles O49: a power of T keeps zero, and both extractors of zero are zero. -/
theorem zeroStateIsAFixedPoint : Obligations.ZeroStateIsAFixedPoint := by
  intro s i hs hi
  obtain ⟨hwords, hdata⟩ := wordsAfter_zero hi
  rw [exec_seeded hs, hwords, hdata, State.setWords_self hs]
  rfl

/-- Settles O50: five repeat their words and data, and the four advance by less than a period. -/
theorem repeatingACommand : Obligations.RepeatingACommand := by
  refine ⟨fun i s t u hi ht hu => ?_, fun i s t u w hi hs hw ht hu hgen => ?_⟩
  · exact Host.Outcome.next.inj (hu.symm.trans (exec_idem hi ht))
  · have htw := gen_of_exec_seeded hs ht
    have huw := gen_of_exec_seeded htw hu
    have hsame : wordsAfter i (wordsAfter i w) = wordsAfter i w :=
      Gen.seeded.inj (huw.symm.trans (hgen.trans htw))
    have hne := wordsAfter_ne_zero hi hw
    obtain ⟨n, hpos, hlt, hn⟩ := wordsAfter_eq_transitionN hi
    rw [hn w] at hsame hne
    rw [hn] at hsame
    exact transitionN_ne_self hne hpos hlt hsame

end Sys2Proof.Machine

/-!
The host's side, family other: command sequences of a seeded block (R87, R88), the outputs drawn
from it (R54, R55), and CLONE and EQ (R74).
-/

namespace Sys2Proof.Machine

/-! ### Command sequences of a seeded block -/

/-- The responses of a seeded block to the encodings of a list of instructions. -/
def responsesOf : List Instr → Words → List Response
  | [], _ => []
  | i :: is, w => ⟨.ok, dataAfter i w⟩ :: responsesOf is (wordsAfter i w)

/-- The words after a list of instructions. -/
def wordsAfterAll : List Instr → Words → Words
  | [], w => w
  | i :: is, w => wordsAfterAll is (wordsAfter i w)

/-- A seeded block executes a list of instructions one after another (R51, R190). -/
theorem issueAll_seeded (is : List Instr) {s : State} {w : Words} (hs : s.gen = .seeded w) :
    ∃ t, issueAll (is.map encode) s = some (responsesOf is w, t) ∧
      t.gen = .seeded (wordsAfterAll is w) := by
  induction is generalizing s w with
  | nil => exact ⟨s, rfl, hs⟩
  | cons i is ih =>
    obtain ⟨t, hall, ht⟩ :=
      ih (s := (s.setWords (wordsAfter i w)).respond .ok (dataAfter i w)) rfl
    exact ⟨t, issueAll_cons (issue_seeded (decode_encode i) hs) hall, ht⟩

/-- No list of the four instructions that advance the state leads to zero (R87). -/
theorem wordsAfterAll_ne_zero {is : List Instr}
    (his : ∀ i ∈ is, i = .nextp ∨ i = .nextss ∨ i = .jump ∨ i = .ljump) {w : Words}
    (hw : w ≠ Words.zero) : wordsAfterAll is w ≠ Words.zero := by
  induction is generalizing w with
  | nil => exact hw
  | cons i is ih =>
    obtain ⟨hi, htail⟩ := List.forall_mem_cons.mp his
    exact ih htail (wordsAfter_ne_zero hi hw)

/-! ### Outputs of a seeded block (R54, R55, R88) -/

/-- The word that an extractor reads from the state (R82, R83). -/
def Extractor.extract : Extractor → Words → Word
  | .plus => extractPlus
  | .starStar => extractStarStar

theorem dataAfter_instr (e : Extractor) (w : Words) :
    dataAfter e.instr w = zextWord (e.extract w) := by
  cases e <;> rfl

theorem wordsAfter_instr (e : Extractor) (w : Words) : wordsAfter e.instr w = transition w := by
  cases e <;> rfl

/-- The k-th response of a mix of extractors is its own extractor's word of T^k(S) (R88). -/
theorem responsesOf_instr (es : List Extractor) (w : Words) :
    responsesOf (es.map Extractor.instr) w =
      es.mapIdx fun k e => ⟨.ok, zextWord (e.extract (transitionN k w))⟩ := by
  induction es generalizing w with
  | nil => rfl
  | cons e es ih =>
    rw [List.map_cons, responsesOf, dataAfter_instr, wordsAfter_instr, ih, List.mapIdx_cons]
    rfl

theorem wordsAfterAll_instr (es : List Extractor) (w : Words) :
    wordsAfterAll (es.map Extractor.instr) w = transitionN es.length w := by
  induction es generalizing w with
  | nil => rfl
  | cons e es ih =>
    rw [List.map_cons, wordsAfterAll, wordsAfter_instr, ih]
    rfl

/-- A mix of produce-next commands: one response and one transition each (R88). -/
theorem issueAll_instr (es : List Extractor) {s : State} {w : Words} (hs : s.gen = .seeded w) :
    ∃ t, issueAll (es.map fun e => encode e.instr) s =
        some (es.mapIdx fun k e => ⟨.ok, zextWord (e.extract (transitionN k w))⟩, t) ∧
      t.gen = .seeded (transitionN es.length w) := by
  have hmap : es.map (fun e => encode e.instr) = (es.map Extractor.instr).map encode := by simp
  rw [← responsesOf_instr, ← wordsAfterAll_instr, hmap]
  exact issueAll_seeded (es.map Extractor.instr) hs

/-- The outputs in OK responses are their words. -/
theorem outputsOf_ok (ws : List Word) :
    outputsOf (ws.map fun v => ⟨.ok, zextWord v⟩) = some ws := by
  induction ws with
  | nil => rfl
  | cons v ws ih =>
    have hv : outputOf ⟨.ok, zextWord v⟩ = some v := congrArg some (zextWord_low v)
    simp [outputsOf, hv, ih]

/-- `n` draws from a seeded block are the extractor's words of S, T(S), ..., T^(n-1)(S). -/
theorem draw_seeded (e : Extractor) (n : Nat) {s : State} {w : Words} (hs : s.gen = .seeded w) :
    ∃ t, draw e n s = some ((List.range n).map fun k => e.extract (transitionN k w), t) ∧
      t.gen = .seeded (transitionN n w) := by
  obtain ⟨t, hall, ht⟩ := issueAll_instr (List.replicate n e) hs
  have hrsp : ((List.replicate n e).mapIdx fun k e =>
        (⟨.ok, zextWord (e.extract (transitionN k w))⟩ : Response)) =
      ((List.range n).map fun k => e.extract (transitionN k w)).map
        fun v => ⟨.ok, zextWord v⟩ :=
    List.ext_getElem (by simp) fun k _ _ => by simp
  rw [List.map_replicate, hrsp] at hall
  refine ⟨t, ?_, by simpa using ht⟩
  simp only [draw, hall, outputsOf_ok, Option.map_some]

/-- The first output is the low half of the 64-bit one (R54). -/
theorem compose64_eq_append (a b : Word) : compose64 a b = b ++ a := by
  refine BitVec.eq_of_getLsbD_eq fun k hk => ?_
  simp only [compose64, BitVec.getLsbD_or, BitVec.getLsbD_setWidth, BitVec.getLsbD_shiftLeft,
    BitVec.getLsbD_append]
  split_ifs with h
  · simp [hk, h]
  · simp [hk, h, BitVec.getLsbD_of_ge a k (by omega)]
    omega

theorem compose64_low (a b : Word) : (compose64 a b).extractLsb' 0 32 = a := by
  rw [compose64_eq_append, BitVec.extractLsb'_append_eq_right]

theorem compose64_high (a b : Word) : (compose64 a b).extractLsb' 32 32 = b := by
  rw [compose64_eq_append, BitVec.extractLsb'_append_eq_left]

theorem next64_seeded (e : Extractor) {s : State} {w : Words} (hs : s.gen = .seeded w) :
    ∃ t, next64 e s = some (compose64 (e.extract w) (e.extract (transition w)), t) ∧
      t.gen = .seeded (transition (transition w)) := by
  obtain ⟨t, hdraw, ht⟩ := draw_seeded e 2 hs
  refine ⟨t, ?_, ht⟩
  simp only [next64, hdraw]
  rfl

/-- `n` bytes of the words of a long enough list (R55). -/
theorem fillBytes_length {n : Nat} {ws : List Word} (h : n ≤ 4 * ws.length) :
    (fillBytes n ws).length = n := by
  rw [fillBytes, List.length_take, flatMap_wordBytes_length, min_eq_left h]

/-- Below the cut, byte 4j + m is byte m of word j (R55). -/
theorem fillBytes_getElem? (ws : List Word) {n j m : Nat} (hm : m < 4) (hn : 4 * j + m < n) :
    (fillBytes n ws)[4 * j + m]? = ws[j]?.map fun w => w.extractLsb' (8 * m) 8 := by
  rw [fillBytes, List.getElem?_take_of_lt hn, flatMap_wordBytes_getElem? ws j m hm]

/-! ### Commands among several blocks (R74) -/

/-- The answer of one block is the answer of the system. -/
theorem Blocks.issue_of_find {n : BlockName} {c : Command} {bs : Blocks} {s t : State}
    {r : Response} (hf : Blocks.find n bs = some s) (h : Machine.issue c s = some (r, t)) :
    Blocks.issue n c bs = some (r, Blocks.put n t bs) :=
  Blocks.issue_eq_some_iff.mpr ⟨s, t, hf, h, rfl⟩

/-- After one block is replaced, a name finds the new state if it is that block's, and else what it
found before. -/
theorem Blocks.find_put_cases {n m : BlockName} {bs : Blocks} {s t : State}
    (hn : Blocks.find n bs = some s) (hm : Blocks.find m bs = some t) (u : State) :
    (s = t ∧ Blocks.find m (Blocks.put n u bs) = some u) ∨
      Blocks.find m (Blocks.put n u bs) = some t := by
  by_cases hmn : m = n
  · subst hmn
    exact .inl ⟨Option.some.inj (hn.symm.trans hm), Blocks.find_put_same hn u⟩
  · exact .inr ((Blocks.find_put_of_ne hmn u bs).trans hm)

/-- RDST of a seeded block sends its words on, and leaves every block's generator as it was. -/
theorem Blocks.forward_seeded {a b : BlockName} {bs : Blocks} {s t : State} {w : Words}
    (ha : Blocks.find a bs = some s) (hb : Blocks.find b bs = some t) (hs : s.gen = .seeded w)
    (f : Words → Instr) : ∃ cs s' t', Blocks.find a cs = some s' ∧ Blocks.find b cs = some t' ∧
      s'.gen = s.gen ∧ t'.gen = t.gen ∧
      Blocks.forward a b f bs = Blocks.issue b (encode (f w)) cs := by
  have hread := Blocks.issue_of_find ha (issue_seeded (decode_encode .rdst) hs)
  obtain ⟨t', hb', ht'⟩ : ∃ t', Blocks.find b (Blocks.put a _ bs) = some t' ∧ t'.gen = t.gen := by
    rcases Blocks.find_put_cases ha hb ((s.setWords w).respond .ok (dataOf w)) with ⟨rfl, h⟩ | h
    · exact ⟨_, h, hs.symm⟩
    · exact ⟨_, h, rfl⟩
  refine ⟨_, _, t', Blocks.find_put_same ha _, hb', hs.symm, ht', ?_⟩
  simp only [Blocks.forward, hread, dataAfter, wordsOf_dataOf]
  rfl

/-- WRST constructs the words of its operand in any block. -/
theorem issue_wrst (w : Words) (s : State) :
    Machine.issue (encode (.wrst w)) s = some (⟨.ok, 0⟩, (s.setWords w).respond .ok 0) :=
  issue_of_complete ((complete_ok (decode_encode _) s).trans (exec_wrst w s)) rfl rfl

/-- EQST of a seeded block compares the operand with its words. -/
theorem issue_eqst {s : State} {w : Words} (hs : s.gen = .seeded w) (v : Words) :
    Machine.issue (encode (.eqst v)) s =
      some (⟨.ok, if v = w then 1 else 0⟩, s.respond .ok (if v = w then 1 else 0)) := by
  simp only [eq_comm (a := v)]
  exact issue_of_complete ((complete_ok (decode_encode _) s).trans (exec_eqst_seeded hs v)) rfl rfl

/-! ### The obligations about the host's side -/

/-- Settles O40: T's powers below the period fix only zero and have a trivial kernel. -/
theorem noSequenceReachesZero : Obligations.NoSequenceReachesZero := by
  refine ⟨fun w => ⟨fun h => ?_, by rintro rfl; exact transition_zero⟩, fun is s w hs hw his => ?_⟩
  · by_contra hw
    exact transitionN_ne_self hw Nat.one_pos (by decide) h
  · obtain ⟨t, hall, ht⟩ := issueAll_seeded is hs
    exact ⟨_, t, _, hall, ht, wordsAfterAll_ne_zero his hw⟩

/-- Settles O41, by the responses of a mix of extractors. -/
theorem variantsShareOneSequence : Obligations.VariantsShareOneSequence := by
  intro es s w hs
  obtain ⟨t, hall, ht⟩ := issueAll_instr es hs
  refine ⟨t, hall.trans ?_, ht⟩
  congr! with k e
  cases e <;> rfl

/-- Settles O54: two draws, packed. -/
theorem wideOutputIsLowWordFirst : Obligations.WideOutputIsLowWordFirst := by
  intro e s w hs
  obtain ⟨t, hnext, ht⟩ := next64_seeded e hs
  refine ⟨_, t, hnext, ht, ?_, ?_⟩ <;>
  · rintro rfl
    exact ⟨compose64_low _ _, compose64_high _ _⟩

/-- Settles O55: the buffer is cut from the bytes of enough draws. -/
theorem byteFillIsLittleEndian : Obligations.ByteFillIsLittleEndian := by
  intro e n s w hs
  obtain ⟨t, hdraw, ht⟩ := draw_seeded e (fillCount n) hs
  have hcount : n ≤ 4 * fillCount n := by
    unfold fillCount
    omega
  refine ⟨fillBytes n _, t, by simp only [fill, hdraw, Option.map_some]; rfl,
    fillBytes_length (by simpa), ht, fun j m hm hn => ?_⟩
  have hj : j < fillCount n := by omega
  rw [fillBytes_getElem? _ hm hn]
  cases e <;> simp [hj, Extractor.extract]

/-- Settles O53: RDST sends A's words to B, where WRST takes them and EQST compares them. -/
theorem cloneCopiesAndEqCompares : Obligations.CloneCopiesAndEqCompares := by
  refine ⟨fun a b bs s t w ha hb hs => ?_, fun a b bs s t v w ha hb hs ht => ?_⟩
  · obtain ⟨cs, s', t', ha', hb', hs', -, hforward⟩ := Blocks.forward_seeded ha hb hs .wrst
    have hclone := hforward.trans (Blocks.issue_of_find hb' (issue_wrst w t'))
    have hb'' := Blocks.find_put_same hb' ((t'.setWords w).respond .ok 0)
    rcases Blocks.find_put_cases hb' ha' ((t'.setWords w).respond .ok 0) with ⟨-, ha''⟩ | ha''
    · exact ⟨_, _, _, _, hclone, rfl, ha'', hb'', rfl, rfl⟩
    · exact ⟨_, _, _, _, hclone, rfl, ha'', hb'', hs'.trans hs, rfl⟩
  · obtain ⟨cs, s', t', -, hb', -, ht', hforward⟩ := Blocks.forward_seeded ha hb hs .eqst
    exact ⟨_, hforward.trans (Blocks.issue_of_find hb' (issue_eqst (ht'.trans ht) v))⟩

end Sys2Proof.Machine

/-!
The assembler, family other: operands are packed into their lanes without losing a bit, and a
command is assembled exactly from operands that are in range (R73).
-/

namespace Sys2Proof.Machine

/-! ### Numbers packed into lanes (R63, R64)

The assembler packs bytes and words in the same way, so that one argument over the lane's width
serves both. -/

/-- The numbers of a list in consecutive lanes of `width` bits, the first one lowest. -/
def packLanes (width : Nat) : List Nat → Data
  | [] => 0
  | n :: ns => (packLanes width ns <<< width) ||| BitVec.ofNat 128 n

theorem dataOfBytes_eq (ns : List Nat) : dataOfBytes ns = packLanes 8 ns := by
  induction ns with
  | nil => rfl
  | cons n ns ih => rw [dataOfBytes, ih, packLanes]

theorem dataOfWords_eq (ns : List Nat) : dataOfWords ns = packLanes 32 ns := by
  induction ns with
  | nil => rfl
  | cons n ns ih => rw [dataOfWords, ih, packLanes]

/-- Bit b of lane k is bit b of number k, if no number reaches into the next lane. -/
theorem getLsbD_packLanes {width : Nat} {ns : List Nat} (hns : ∀ n ∈ ns, n < 2 ^ width) {k b : Nat}
    (hb : b < width) (hk : width * k + b < 128) :
    (packLanes width ns).getLsbD (width * k + b) = (ns.getD k 0).testBit b := by
  induction ns generalizing k with
  | nil => simp [packLanes]
  | cons n ns ih =>
    obtain ⟨hn, hns⟩ := List.forall_mem_cons.mp hns
    rw [packLanes, BitVec.getLsbD_or, BitVec.getLsbD_shiftLeft, BitVec.getLsbD_ofNat]
    cases k with
    | zero => simp at hk ⊢; simp [hb, hk]
    | succ k =>
      have hbit : n.testBit (width * (k + 1) + b) = false :=
        Nat.testBit_lt_two_pow (hn.trans_le (Nat.pow_le_pow_right (by decide) (by nlinarith)))
      have hpos : width * (k + 1) + b - width = width * k + b := by
        rw [Nat.mul_succ]; omega
      have hge : ¬ width * (k + 1) + b < width := by nlinarith
      simp [hbit, hpos, hge, hk, ih hns (k := k) (by nlinarith)]

/-- Lane k of the packed numbers is number k. -/
theorem getElem?_of_packLanes {width : Nat} {ns : List Nat} (hns : ∀ n ∈ ns, n < 2 ^ width)
    {k : Nat} (hk : k < ns.length) (hfit : width * (k + 1) ≤ 128) :
    ns[k]? = some ((packLanes width ns).extractLsb' (width * k) width).toNat := by
  have hlane : (packLanes width ns).extractLsb' (width * k) width = BitVec.ofNat width ns[k] := by
    refine BitVec.eq_of_getLsbD_eq fun b hb => ?_
    rw [BitVec.getLsbD_extractLsb', getLsbD_packLanes hns hb (by linarith), BitVec.getLsbD_ofNat,
      List.getD_eq_getElem ns 0 hk]
  rw [hlane, BitVec.toNat_ofNat, Nat.mod_eq_of_lt (hns _ (List.getElem_mem hk)),
    List.getElem?_eq_getElem hk]

/-- The numbers in the first `count` lanes of a field. -/
def lanes (width count : Nat) (d : Data) : List Nat :=
  (List.range count).map fun k => (d.extractLsb' (width * k) width).toNat

@[simp] theorem lanes_length (width count : Nat) (d : Data) :
    (lanes width count d).length = count := by
  simp [lanes]

theorem lanes_lt (width count : Nat) (d : Data) : ∀ n ∈ lanes width count d, n < 2 ^ width := by
  intro n hn
  obtain ⟨k, -, rfl⟩ := List.mem_map.mp hn
  exact BitVec.isLt _

/-- Packing the lanes that make up a field gives the field back. -/
theorem packLanes_lanes {width count : Nat} (h : width * count = 128) (d : Data) :
    packLanes width (lanes width count d) = d := by
  refine BitVec.eq_of_getLsbD_eq fun i hi => ?_
  have hwidth : 0 < width := Nat.pos_of_ne_zero fun h0 => by simp [h0] at h
  have hlane : i / width < count := Nat.div_lt_of_lt_mul (h ▸ hi)
  have hbit : i % width < width := Nat.mod_lt i hwidth
  have hi' : width * (i / width) + i % width = i := Nat.div_add_mod i width
  have hpack := getLsbD_packLanes (lanes_lt width count d) hbit (k := i / width) (by rwa [hi'])
  have hget : (lanes width count d).getD (i / width) 0 =
      (d.extractLsb' (width * (i / width)) width).toNat := by simp [lanes, hlane]
  rw [hi', hget, BitVec.testBit_toNat, BitVec.getLsbD_extractLsb', hi'] at hpack
  rw [hpack, decide_eq_true hbit, Bool.true_and]

/-! ### What each mnemonic assembles to (R73) -/

theorem asmNone_eq_some_iff {op : Byte} {args : List Nat} {c : Command} :
    asmNone op args = some c ↔ args = [] ∧ c = ⟨op, 0⟩ := by
  simp [asmNone, eq_comm]

theorem assemble_seedb_eq_some_iff {args : List Nat} {c : Command} :
    assemble .seedb args = some c ↔
      (args.length = 16 ∧ ∀ b ∈ args, b < 2 ^ 8) ∧ c = ⟨0x05, packLanes 8 args⟩ := by
  rw [assemble, dataOfBytes_eq, Option.ite_none_right_eq_some, Option.some.injEq,
    eq_comm (a := c)]

theorem asmWords_eq_some_iff {op : Byte} {args : List Nat} {c : Command} :
    asmWords op args = some c ↔
      (args.length = 4 ∧ ∀ w ∈ args, w < 2 ^ 32) ∧ c = ⟨op, packLanes 32 args⟩ := by
  rw [asmWords, dataOfWords_eq, Option.ite_none_right_eq_some, Option.some.injEq,
    eq_comm (a := c)]

/-- A number below 2^64 lies in the operand of format Q. -/
theorem encode_seed64_ofNat {v : Nat} (hv : v < 2 ^ 64) :
    encode (.seed64 (BitVec.ofNat 64 v)) = ⟨0x06, BitVec.ofNat 128 v⟩ := by
  have hdata : (BitVec.ofNat 64 v).setWidth 128 = BitVec.ofNat 128 v :=
    BitVec.eq_of_toNat_eq (by
      simp only [BitVec.toNat_setWidth, BitVec.toNat_ofNat, Nat.mod_eq_of_lt hv])
  rw [encode, hdata]

theorem assemble_seed64_eq_some_iff {args : List Nat} {c : Command} :
    assemble .seed64 args = some c ↔
      ∃ v, args = [v] ∧ v < 2 ^ 64 ∧ c = encode (.seed64 (BitVec.ofNat 64 v)) := by
  match args with
  | [] => simp [assemble]
  | [v] =>
    by_cases hv : v < 2 ^ 64
    · have hone : assemble .seed64 [v] = some ⟨0x06, BitVec.ofNat 128 v⟩ := if_pos hv
      rw [hone, ← encode_seed64_ofNat hv]
      exact ⟨fun h => ⟨v, rfl, hv, (Option.some.inj h).symm⟩, by rintro ⟨_, ⟨⟩, -, rfl⟩; rfl⟩
    · have hnone : assemble .seed64 [v] = none := if_neg hv
      rw [hnone]
      exact iff_of_false nofun (by rintro ⟨_, ⟨⟩, hlt, -⟩; exact hv hlt)
  | _ :: _ :: _ => simp [assemble]

/-- What is assembled decodes, and so is legal. -/
theorem decode_of_assemble {m : Mnemonic} {args : List Nat} {c : Command}
    (h : assemble m args = some c) : ∃ i, decode c = .ok i := by
  cases m with
  | nextp => obtain ⟨-, rfl⟩ := asmNone_eq_some_iff.mp h; exact ⟨_, decode_encode .nextp⟩
  | nextss => obtain ⟨-, rfl⟩ := asmNone_eq_some_iff.mp h; exact ⟨_, decode_encode .nextss⟩
  | jump => obtain ⟨-, rfl⟩ := asmNone_eq_some_iff.mp h; exact ⟨_, decode_encode .jump⟩
  | ljump => obtain ⟨-, rfl⟩ := asmNone_eq_some_iff.mp h; exact ⟨_, decode_encode .ljump⟩
  | seedb => obtain ⟨-, rfl⟩ := assemble_seedb_eq_some_iff.mp h; exact ⟨_, decode_seedb _⟩
  | seed64 =>
    obtain ⟨v, -, -, rfl⟩ := assemble_seed64_eq_some_iff.mp h
    exact ⟨_, decode_encode _⟩
  | rdst => obtain ⟨-, rfl⟩ := asmNone_eq_some_iff.mp h; exact ⟨_, decode_encode .rdst⟩
  | wrst => obtain ⟨-, rfl⟩ := asmWords_eq_some_iff.mp h; exact ⟨_, decode_wrst _⟩
  | eqst => obtain ⟨-, rfl⟩ := asmWords_eq_some_iff.mp h; exact ⟨_, decode_eqst _⟩

/-- The words of a tuple, as operands, are assembled into its 128-bit view. -/
theorem asmWords_lanes (op : Byte) (w : Words) :
    asmWords op (lanes 32 4 (dataOf w)) = some ⟨op, dataOf w⟩ := by
  refine asmWords_eq_some_iff.mpr ⟨⟨lanes_length _ _ _, lanes_lt 32 4 _⟩, ?_⟩
  rw [packLanes_lanes (by decide)]

/-- Every instruction can be written. -/
theorem exists_assemble_eq_encode (i : Instr) : ∃ m args, assemble m args = some (encode i) := by
  cases i with
  | nextp => exact ⟨.nextp, [], rfl⟩
  | nextss => exact ⟨.nextss, [], rfl⟩
  | jump => exact ⟨.jump, [], rfl⟩
  | ljump => exact ⟨.ljump, [], rfl⟩
  | seedb b =>
    refine ⟨.seedb, lanes 8 16 b,
      assemble_seedb_eq_some_iff.mpr ⟨⟨lanes_length _ _ _, lanes_lt 8 16 b⟩, ?_⟩⟩
    rw [packLanes_lanes (by decide)]
    rfl
  | seed64 v =>
    refine ⟨.seed64, [v.toNat], assemble_seed64_eq_some_iff.mpr ⟨v.toNat, rfl, v.isLt, ?_⟩⟩
    rw [BitVec.ofNat_toNat, BitVec.setWidth_eq]
  | rdst => exact ⟨.rdst, [], rfl⟩
  | wrst w => exact ⟨.wrst, _, asmWords_lanes 0x08 w⟩
  | eqst w => exact ⟨.eqst, _, asmWords_lanes 0x09 w⟩

/-- Four operand words are accepted exactly when they are four and in range. -/
theorem asmWords_isSome_iff (op : Byte) (args : List Nat) :
    (asmWords op args).isSome = true ↔ args.length = 4 ∧ ∀ w ∈ args, w < 2 ^ 32 := by
  simp only [Option.isSome_iff_exists, asmWords_eq_some_iff, exists_and_left, exists_eq, and_true]

/-- Operand word k is assembled into word lane k. -/
theorem getElem?_of_asmWords {op : Byte} {args : List Nat} {c : Command} {k : Nat}
    (h : asmWords op args = some c) (hk : k < 4) :
    c.op = op ∧ args[k]? = some (wordLane c.data k).toNat := by
  obtain ⟨⟨hlen, hargs⟩, rfl⟩ := asmWords_eq_some_iff.mp h
  exact ⟨rfl, getElem?_of_packLanes hargs (by omega) (by omega)⟩

/-! ### The obligation about the assembler -/

/-- Settles O57: each mnemonic accepts exactly the operands that its lanes hold. -/
theorem assemblerNeverTruncates : Obligations.AssemblerNeverTruncates := by
  refine ⟨exists_assemble_eq_encode,
    fun m args c h => (decode_ok_iff_legal c).mp (decode_of_assemble h),
    fun args => ⟨rfl, rfl, rfl, rfl, rfl⟩, fun args => ?_, fun args => ?_,
    fun args => ⟨asmWords_isSome_iff _ args, asmWords_isSome_iff _ args⟩, fun args c k h hk => ?_,
    fun v c h => ?_, fun _ _ _ => getElem?_of_asmWords, fun _ _ _ => getElem?_of_asmWords,
    rfl, rfl, rfl, rfl, rfl, rfl, rfl, rfl, rfl⟩
  · simp only [Option.isSome_iff_exists, assemble_seedb_eq_some_iff, exists_and_left, exists_eq,
      and_true]
    exact and_congr_right fun _ => forall₂_congr fun b _ => Nat.lt_succ_iff
  · rw [Option.isSome_iff_exists]
    constructor
    · rintro ⟨c, h⟩
      obtain ⟨v, hargs, hv, -⟩ := assemble_seed64_eq_some_iff.mp h
      exact ⟨v, hargs, hv⟩
    · rintro ⟨v, hargs, hv⟩
      exact ⟨_, assemble_seed64_eq_some_iff.mpr ⟨v, hargs, hv, rfl⟩⟩
  · obtain ⟨⟨hlen, hargs⟩, rfl⟩ := assemble_seedb_eq_some_iff.mp h
    exact ⟨rfl, getElem?_of_packLanes hargs (by omega) (by omega)⟩
  · obtain ⟨u, ⟨⟩, hv, rfl⟩ := assemble_seed64_eq_some_iff.mp h
    refine ⟨rfl, ?_, setWidth_quad_high _⟩
    exact (congrArg BitVec.toNat (setWidth_quad_low _)).trans (Nat.mod_eq_of_lt hv)

end Sys2Proof.Machine
